-- ==== Sys2Proof/Config.lean ====
section
/-! DEFINITION. The parameters fixed when the block is built (00_scope.md R5; 92_eei_decisions.md, "Parameters left
open"). A `Config` cannot hold an illegal parameter (93_implementation_defined.md U4). -/

namespace Sys2Proof

/-- The OPEN parameters of 00_scope.md R5 with their constraints. No operation writes them (10_state.md R28). -/
structure Config where
  /-- `QDEPTH`: how many entries the word queue can hold. -/
  qdepth : Nat
  /-- `RATE`: ticks per second. -/
  rate : Nat
  /-- `F_SYS_MHZ`: frequency of the system clock in MHz. -/
  fSysMhz : Nat
  /-- `DAT_RESET`: level of the data line after reset. -/
  datReset : Bool
  qdepth_pos : 1 ≤ qdepth
  rate_pos : 1 ≤ rate
  rate_le : rate ≤ 200000
  fSysMhz_pos : 1 ≤ fSysMhz
deriving DecidableEq, Repr

/-- The build of `State.reset`. DESIGN CHOICE, unsafe for claims about `State.reset` alone (log entry 1): `RATE` and
`DAT_RESET` are the spec's reference values, `QDEPTH` = 4 and `F_SYS_MHZ` = 1 those its examples use. -/
def Config.reference : Config where
  qdepth := 4
  rate := 200000
  fSysMhz := 1
  datReset := false
  qdepth_pos := by decide
  rate_pos := by decide
  rate_le := by decide
  fSysMhz_pos := by decide

end Sys2Proof
end

