-- ==== Sys2Proof/Machine/Timing.lean ====
section
/-! DEFINITION. The tick period and the figures that follow from it (00_scope.md R5, 60_exceptions.md R127,
70_reset_and_hazards.md R153), and the register widths of 10_state.md R10. -/

namespace Sys2Proof.Machine

/-- Building the block from raw parameters: illegal ones are refused (60_exceptions.md R127; U4). -/
def buildConfig (qdepth rate fSysMhz : Nat) (datReset : Bool) : Option Config :=
  if h : 1 ≤ qdepth ∧ 1 ≤ rate ∧ rate ≤ 200000 ∧ 1 ≤ fSysMhz then
    some ⟨qdepth, rate, fSysMhz, datReset, h.1, h.2.1, h.2.2.1, h.2.2.2⟩
  else none

/-- `P_US = floor(1000000 / RATE)`, in microseconds (60_exceptions.md R127). -/
def tickPeriodUs (c : Config) : Nat := 1000000 / c.rate

/-- `TICK_DIV = P_US * F_SYS_MHZ`, in system-clock cycles (60_exceptions.md R128). -/
def tickDiv (c : Config) : Nat := tickPeriodUs c * c.fSysMhz

/-- The period of the clock line, `2 * P_US` (60_exceptions.md R127). -/
def clockLinePeriodUs (c : Config) : Nat := 2 * tickPeriodUs c

/-- Time to send an entry of length `len`, `(len + 1) * P_US` (70_reset_and_hazards.md R153). -/
def sendTimeUs (c : Config) (len : Nat) : Nat := (len + 1) * tickPeriodUs c

/-- Time to send queued entries of the given lengths (70_reset_and_hazards.md R153). -/
def sendAllTimeUs (c : Config) (lens : List Nat) : Nat := (lens.map (· + 1)).sum * tickPeriodUs c

/-- Peak data rate inside a word, in bits per second (70_reset_and_hazards.md R153). -/
def peakBitRate (c : Config) : Nat := c.rate

/-- Data rate sustained with words of length `len`, `RATE * L / (L + 1)` (70_reset_and_hazards.md R153). -/
def sustainedBitRate (c : Config) (len : Nat) : Rat := (c.rate : Rat) * len / (len + 1)

/-- Width of `Q_COUNT`, `ceil(log2(QDEPTH + 1))` (10_state.md R10). -/
def qCountWidth (c : Config) : Nat := Nat.clog 2 (c.qdepth + 1)

/-- Width of `Q_RD`, `max(1, ceil(log2(QDEPTH)))` (10_state.md R10). -/
def qRdWidth (c : Config) : Nat := max 1 (Nat.clog 2 c.qdepth)

/-- Width of `DIV`, `ceil(log2(TICK_DIV))`, at least 1 (10_state.md R22). -/
def divWidth (c : Config) : Nat := max 1 (Nat.clog 2 (tickDiv c))

end Sys2Proof.Machine
end

