-- ==== Sys2Proof/Word.lean ====
section
/-! DEFINITION. The widths of the block's values (00_scope.md R5, 10_state.md R10, 30_encoding.md R61, R62). -/

namespace Sys2Proof

/-- A word's value: `WORD_W` = 32 bits, unsigned (00_scope.md R5). -/
abbrev Value := BitVec 32

/-- A bit position or a bit length: `LEN_W` = 6 bits, unsigned (00_scope.md R5). -/
abbrev Len := BitVec 6

/-- A queue entry in format Q, 38 bits, `len` above `value` (30_encoding.md R62). -/
abbrev Entry := BitVec 38

/-- The event vector of a cycle, format E, `EV[3:0]` (30_encoding.md R61). -/
abbrev EventVector := BitVec 4

end Sys2Proof
end

