-- ==== Sys2Proof/Machine/State.lean ====
section
/-! DEFINITION. The state of the block (10_state.md R10, R22, R30), its reset value (R29) and the two ways a model step
can stop. -/

namespace Sys2Proof.Machine

/-- One pin event of the observation trace (10_state.md R30): a line was driven to a level. -/
inductive PinEvent where
  | clk (level : Bool)
  | dat (level : Bool)
deriving DecidableEq, Repr

/-- What the outside presents at the input ports in one system-clock cycle (30_encoding.md R61). -/
structure PortSample where
  rst : Bool
  start : Bool
  pushValid : Bool
  pushValue : Value
  pushLen : Len
deriving DecidableEq, Repr

/-- Every input port at 0: no event from outside in the cycle. -/
def PortSample.quiet : PortSample where
  rst := false
  start := false
  pushValid := false
  pushValue := 0
  pushLen := 0

/-- The queue store `Q_MEM` (20_memory.md R40): pairs of an index and the 38-bit entry written there, indices strictly
rising. An index not listed holds no value (10_state.md R18; log entry 7). -/
abbrev Memory := List (Nat × Entry)

/-- The complete state of 10_state.md R10, with `DIV` (R22) and `PINLOG` (R30), the build's parameters, and the model's
own list of coming port samples (log entry 2). -/
structure State where
  /-- The parameters of the build; no operation writes them (10_state.md R28). -/
  cfg : Config
  /-- `CLK`, the level of the clock line (10_state.md R11). -/
  clk : Bool
  /-- `PW_VALUE` (10_state.md R12). -/
  pwValue : Value
  /-- `PW_POS` (10_state.md R13). -/
  pwPos : Len
  /-- `PW_LEN` (10_state.md R14). -/
  pwLen : Len
  /-- `Q_COUNT` (10_state.md R16). -/
  qCount : Nat
  /-- `Q_RD` (10_state.md R17). -/
  qRd : Nat
  /-- `Q_MEM` (10_state.md R18). -/
  qMem : Memory
  /-- `DAT`, the level of the data line (10_state.md R20). -/
  dat : Bool
  /-- `RUN` (10_state.md R21). -/
  run : Bool
  /-- `DIV`, the tick generator's down-counter, timing only (10_state.md R22). -/
  div : Nat
  /-- `PINLOG`, oldest event first, observation only (10_state.md R30). -/
  pinLog : List PinEvent
  /-- The MODEL's own: port samples of the coming cycles, next one first, quiet past the end (log entry 2). -/
  inputs : List PortSample
deriving DecidableEq, Repr

/-- The reset values of 10_state.md R29 for a build, whatever the block held before. `inputs` is not the block's. -/
def State.resetWith (c : Config) (inputs : List PortSample) : State where
  cfg := c
  clk := false
  pwValue := 0
  pwPos := 0
  pwLen := 0
  qCount := 0
  qRd := 0
  qMem := []
  dat := c.datReset
  run := false
  div := tickDiv c - 1
  pinLog := []
  inputs := inputs

/-- The block of the reference build right after RESET (10_state.md R29), no input scheduled. -/
def State.reset : State := State.resetWith Config.reference []

/-- Why a step of the model faults. The hardware has no fault (60_exceptions.md R120). -/
inductive Fault where
  /-- QRead of an index of `Q_MEM` that nothing has written since RESET (20_memory.md R41 lets a model make it an
  error). Raised by TICK.LOAD. Safe: it never happens in a state that meets the invariant (10_state.md R19). -/
  | unwrittenEntry
deriving DecidableEq, Repr

/-- Why the model gives an operation no meaning. -/
inductive Refusal where
  /-- An instruction whose arm is not written yet. No arm answers it. Safe. -/
  | notModelled (mnemonic : String)
  /-- A TICK while `RUN` = 0, which is not enabled (40_tick.md R80; 42_control.md R111). Raised by the three TICK rows.
  Safe: the tick generator raises no strobe then (60_exceptions.md R128), so `step` never meets it. -/
  | tickNotEnabled
deriving DecidableEq, Repr

end Sys2Proof.Machine
end

