-- ==== Sys2Proof/Syntax.lean ====
section
/-! DEFINITION. The operations of the block: the four of 00_scope.md R8 (`Event`), and the nine rows of
spec/opcode_table.json (`Instr`). There are no others (00_scope.md R1; 42_control.md R112: no STOP). -/

namespace Sys2Proof

/-- One occurrence of one operation (00_scope.md R8). -/
inductive Event where
  | reset
  | start
  | tick
  | push (len : Len) (value : Value)
deriving DecidableEq, Repr

/-- The three classes of state of 10_state.md R25, which are also the three arms of a TICK (40_tick.md R85). -/
inductive StateClass where
  | active
  | loadPending
  | idle
deriving DecidableEq, Repr

/-- The rows of spec/opcode_table.json. The three TICK rows share one encoding, and so do the PUSH rows up to the
entry's length: which row an event is depends on the state it meets (30_encoding.md R66). -/
inductive Instr where
  /-- `RESET` (70_reset_and_hazards.md R140). -/
  | reset
  /-- `START` (42_control.md R110). -/
  | start
  /-- `TICK.EMIT` (40_tick.md R82). -/
  | tickEmit
  /-- `TICK.LOAD` (40_tick.md R83). -/
  | tickLoad
  /-- `TICK.IDLE` (40_tick.md R84). -/
  | tickIdle
  /-- `PUSH`, the row of lengths 0 to 31 (41_queue_push.md R100). -/
  | push (len : Len) (value : Value)
  /-- `PUSH`, the row of length 32 (41_queue_push.md R100). -/
  | push32 (value : Value)
  /-- `PUSH.FULL`, any entry (41_queue_push.md R101). -/
  | pushFull (len : Len) (value : Value)
  /-- `PUSH.RSVD`, lengths 33 to 63 (41_queue_push.md R102). -/
  | pushRsvd (len : Len) (value : Value)
deriving DecidableEq, Repr

end Sys2Proof
end

