-- ==== Sys2Proof/Machine/Flags.lean ====
section
/-! DEFINITION. The derived predicates of 10_state.md R25, the status outputs of R24 and the pins of R23. The block
stores no flag. -/

namespace Sys2Proof.Machine

/-- `EXHAUSTED` (10_state.md R25). -/
def State.exhausted (s : State) : Bool := s.pwPos == s.pwLen

/-- `ACTIVE` (10_state.md R25), also the status output `active` (R24). -/
def State.active (s : State) : Bool := decide (s.pwPos < s.pwLen)

/-- `LOAD_PENDING` (10_state.md R25). -/
def State.loadPending (s : State) : Bool := s.exhausted && decide (0 < s.qCount)

/-- `IDLE` (10_state.md R25), also the status output `idle` (R24). -/
def State.idle (s : State) : Bool := s.exhausted && s.qCount == 0

/-- `DRAINED`, the only notion of "finished" (70_reset_and_hazards.md R154). -/
def State.drained (s : State) : Bool := s.idle

/-- The choice of a TICK's arm (40_tick.md R85). -/
def State.cls (s : State) : StateClass :=
  if s.pwPos < s.pwLen then .active
  else if 0 < s.qCount then .loadPending
  else .idle

/-- The status output `push_ready` (10_state.md R24). -/
def State.pushReady (s : State) : Bool := decide (s.qCount < s.cfg.qdepth)

/-- The status output `q_count` (10_state.md R24). -/
def State.qCountOut (s : State) : Nat := s.qCount

/-- The pin `icsp_clk` (10_state.md R23). -/
def State.icspClk (s : State) : Bool := s.clk

/-- The pin `icsp_dat` (10_state.md R23). -/
def State.icspDat (s : State) : Bool := s.dat

/-- The column `when` of spec/opcode_table.json, row by row, in its own words. -/
def rowWhen (s : State) : Instr → Bool
  | .reset => true
  | .start => true
  | .tickEmit => s.run && s.active
  | .tickLoad => s.run && s.loadPending
  | .tickIdle => s.run && s.idle
  | .push _ _ => s.pushReady
  | .push32 _ => s.pushReady
  | .pushFull _ _ => s.qCount == s.cfg.qdepth
  | .pushRsvd len _ => decide (32 < len.toNat)

end Sys2Proof.Machine
end

