-- ==== Sys2Proof/Decode.lean ====
section
/-! DEFINITION. Decoding a cycle's event vector and operand (30_encoding.md R61 to R67), and the encoder.

The layout of a cycle's word as one number is the model's (DESIGN CHOICE, log entry 4): `EV[3:0]` in bits 3:0 of the
first byte, whose bits 7:4 are 0, and the 38-bit entry from bit 8 on. -/

namespace Sys2Proof

/-- Format Q: `{len, value}` (30_encoding.md R62). -/
def packEntry (len : Len) (value : Value) : Entry := len ++ value

/-- `entry[37:32]` (30_encoding.md R62), used as it stands (R63). -/
def entryLen (e : Entry) : Len := e.extractLsb' 32 6

/-- `entry[31:0]` (30_encoding.md R62), used as it stands (R64). -/
def entryValue (e : Entry) : Value := e.extractLsb' 0 32

/-- `EV[3:0] = {rst, start, push_valid, tick}` (30_encoding.md R61). -/
def packVector (rst start pushValid tick : Bool) : EventVector :=
  BitVec.ofBool rst ++ BitVec.ofBool start ++ BitVec.ofBool pushValid ++ BitVec.ofBool tick

/-- A cycle's event vector and operand as the list of its events in their order (30_encoding.md R66;
60_exceptions.md R123): RESET alone, else START, TICK, PUSH. Every vector is legal, and 0 is no event. -/
def decodeCycle (ev : EventVector) (entry : Entry) : List Event :=
  if ev.getLsbD 3 then [.reset]
  else
    (if ev.getLsbD 2 then [.start] else []) ++
    (if ev.getLsbD 0 then [.tick] else []) ++
    (if ev.getLsbD 1 then [.push (entryLen entry) (entryValue entry)] else [])

/-- The row of spec/opcode_table.json an event is, in a state of class `cls` whose queue is full or not (the table's
`when`; 40_tick.md R85). A push both reserved and into a full queue is called `PUSH.RSVD` (log entry 9). -/
def Event.row (cls : StateClass) (full : Bool) : Event → Instr
  | .reset => .reset
  | .start => .start
  | .tick =>
    match cls with
    | .active => .tickEmit
    | .loadPending => .tickLoad
    | .idle => .tickIdle
  | .push len value =>
    if 32 < len.toNat then .pushRsvd len value
    else if full then .pushFull len value
    else if len.toNat = 32 then .push32 value
    else .push len value

/-- Why a cycle's word is not decoded to a row. -/
inductive DecodeError where
  /-- Bits 7:4 of the first byte are not all 0: the event vector has 4 bits (30_encoding.md R61). -/
  | beyondVector
  /-- A bit above the 38 of the entry is set (30_encoding.md R62). -/
  | beyondEntry
  /-- `EV` = 0: no event (30_encoding.md R66). -/
  | noEvent
deriving DecidableEq, Repr

/-- The event vector and the entry of a cycle's word. -/
def splitWord (w : Nat) : Except DecodeError (EventVector × Entry) :=
  if w / 2 ^ 46 ≠ 0 then .error .beyondEntry
  else if (w / 2 ^ 4) % 2 ^ 4 ≠ 0 then .error .beyondVector
  else .ok (BitVec.ofNat 4 w, BitVec.ofNat 38 (w / 2 ^ 8))

/-- The row of the first event of a cycle's word, in a state of class `cls` whose queue is full or not. -/
def decodeRow (cls : StateClass) (full : Bool) (w : Nat) : Except DecodeError Instr :=
  match splitWord w with
  | .error r => .error r
  | .ok (ev, entry) =>
    match decodeCycle ev entry with
    | [] => .error .noEvent
    | e :: _ => .ok (e.row cls full)

/-- What the decoder reads from a word of `nbits` bits in the state right after reset, where the class is IDLE and the
queue is not full (10_state.md R29; log entry 5). -/
def decodeTableWord (nbits w : Nat) : Option Instr :=
  match decodeRow .idle false (w % 2 ^ nbits) with
  | .ok i => some i
  | .error _ => none

/-- The operation a row belongs to (00_scope.md R8). -/
def Instr.event : Instr → Event
  | .reset => .reset
  | .start => .start
  | .tickEmit => .tick
  | .tickLoad => .tick
  | .tickIdle => .tick
  | .push len value => .push len value
  | .push32 value => .push 32#6 value
  | .pushFull len value => .push len value
  | .pushRsvd len value => .push len value

/-- The event vector that presents one event alone (30_encoding.md R69). -/
def Event.vector : Event → EventVector
  | .reset => 0x8#4
  | .start => 0x4#4
  | .tick => 0x1#4
  | .push _ _ => 0x2#4

/-- The operand that goes with an event; 0 where it has none (30_encoding.md R62, R69). -/
def Event.entry : Event → Entry
  | .reset => 0#38
  | .start => 0#38
  | .tick => 0#38
  | .push len value => packEntry len value

/-- The encoder: a row's event vector and entry as one word. -/
def encode (i : Instr) : Nat :=
  i.event.vector.toNat + i.event.entry.toNat * 2 ^ 8

end Sys2Proof
end

