-- ==== Sys2Proof/Machine/Operands.lean ====
section
/-! DEFINITION. What the operations take as operands: the bit a TICK.EMIT reads, the two queue indices, the legality of
a pushed length. No operation names a register or an index (10_state.md R26, 20_memory.md R40). -/

namespace Sys2Proof.Machine

/-- `v[i]` of 00_scope.md R6: `floor(v / 2^i) mod 2`. -/
def valueBit (v : Value) (i : Nat) : Bool := v.getLsbD i

/-- The bit TICK.EMIT reads, `PW_VALUE[PW_POS]` (40_tick.md R82). -/
def State.nextBit (s : State) : Bool := valueBit s.pwValue s.pwPos.toNat

/-- The index of the `k`-th entry of the live window, oldest first (10_state.md R19). -/
def State.slotIndex (s : State) (k : Nat) : Nat := (s.qRd + k) % s.cfg.qdepth

/-- The index PUSH stores at, `(Q_RD + Q_COUNT) mod QDEPTH` (10_state.md R17). -/
def State.writeIndex (s : State) : Nat := s.slotIndex s.qCount

/-- A length PUSH accepts, 0 to 32 (41_queue_push.md R100, R102). -/
def lenLegal (len : Len) : Bool := decide (len.toNat ≤ 32)

end Sys2Proof.Machine
end

