-- ==== Sys2Proof/Machine/Ops.lean ====
section
/-! DEFINITION. The named operations over the store and the registers, and the shared operations TICK and PUSH.

Taking an exception and returning from one do not exist in this block: it raises none, saves nothing, fetches no vector
and has no mode (60_exceptions.md R120, R124, R125, R126, R133). -/

namespace Sys2Proof.Machine

/-- What an operation answers. -/
abbrev Result := Host.Outcome State Fault Refusal

/-- `QRead(i)` (20_memory.md R41): the entry at index `i`; none where nothing has been written (10_state.md R18). -/
def Memory.read : Memory → Nat → Option Entry
  | [], _ => none
  | (j, e) :: m, i => if i = j then some e else Memory.read m i

/-- `QWrite(i, e)` (20_memory.md R41), keeping the indices strictly rising. -/
def Memory.write : Memory → Nat → Entry → Memory
  | [], i, e => [(i, e)]
  | (j, f) :: m, i, e =>
    if i < j then (i, e) :: (j, f) :: m
    else if i = j then (i, e) :: m
    else (j, f) :: Memory.write m i e

/-- The canonical form: strictly rising indices, so that equal stores are equal lists. -/
def Memory.wf : Memory → Bool
  | [] => true
  | [_] => true
  | (i, _) :: (j, f) :: m => decide (i < j) && Memory.wf ((j, f) :: m)

/-- Drive the clock pin and log it (40_tick.md R81). -/
def State.toggleClk (s : State) : State :=
  { s with clk := !s.clk, pinLog := s.pinLog ++ [.clk (!s.clk)] }

/-- Drive the data pin and log it, also when the level does not change (10_state.md R30, 40_tick.md R82). -/
def State.driveDat (s : State) (b : Bool) : State :=
  { s with dat := b, pinLog := s.pinLog ++ [.dat b] }

/-- `PW_POS <- PW_POS + 1` (40_tick.md R82). -/
def State.advancePos (s : State) : State := { s with pwPos := s.pwPos + 1 }

/-- Replace the pending word: all of the value, position 0, the declared length (40_tick.md R83). -/
def State.loadPendingWord (s : State) (e : Entry) : State :=
  { s with pwValue := entryValue e, pwPos := 0, pwLen := entryLen e }

/-- Advance the cursor, wrapping, and count one entry less (40_tick.md R83). -/
def State.popQueue (s : State) : State :=
  { s with qRd := (s.qRd + 1) % s.cfg.qdepth, qCount := s.qCount - 1 }

/-- Store an entry at the write index and count it (41_queue_push.md R100). -/
def State.storeEntry (s : State) (e : Entry) : State :=
  { s with qMem := Memory.write s.qMem s.writeIndex e, qCount := s.qCount + 1 }

/-- Set `RUN` and load `DIV` (42_control.md R110). -/
def State.startRun (s : State) : State :=
  { s with run := true, div := tickDiv s.cfg - 1 }

/-- The arm TICK.EMIT, after the toggle (40_tick.md R82). -/
def emitArm (s : State) : State := (s.driveDat s.nextBit).advancePos

/-- The arm TICK.LOAD, after the toggle (40_tick.md R83). A load of an entry nothing has written faults. -/
def loadArm (s : State) : Result :=
  match Memory.read s.qMem s.qRd with
  | some e => .next (s.loadPendingWord e).popQueue
  | none => .fault .unwrittenEntry

/-- TICK (40_tick.md R80): the toggle, then the one arm the state before the event chooses (R85). Not enabled while
`RUN` = 0. -/
def tick (s : State) : Result :=
  if s.run then
    match s.cls with
    | .active => .next (emitArm s.toggleClk)
    | .loadPending => loadArm s.toggleClk
    | .idle => .next s.toggleClk
  else .refused .tickNotEnabled

/-- PUSH (41_queue_push.md R100): stored if there is room and the length is legal, else dropped without a signal (R101,
R102). -/
def push (len : Len) (value : Value) (s : State) : State :=
  if s.pushReady && lenLegal len then s.storeEntry (packEntry len value) else s

/-- START (42_control.md R110): no effect when `RUN` = 1. -/
def start (s : State) : State := if s.run then s else s.startRun

/-- RESET (70_reset_and_hazards.md R140): every element takes its reset value, whatever it held. The build and the
outside's coming samples are not the block's to change. -/
def reset (s : State) : State := State.resetWith s.cfg s.inputs

/-- The strobe of the tick generator in a cycle with `rst` = 0 (60_exceptions.md R128). -/
def State.strobe (s : State) : Bool := s.run && s.div == 0

/-- The divider in a cycle with `rst` = 0 (60_exceptions.md R128). -/
def State.countDiv (s : State) : State :=
  { s with div := if s.run then (if s.div = 0 then tickDiv s.cfg - 1 else s.div - 1) else s.div }

/-- The port sample of this cycle (log entry 2). -/
def State.ports (s : State) : PortSample := s.inputs.headD .quiet

/-- The outside moves on to its next sample. -/
def State.dropSample (s : State) : State := { s with inputs := s.inputs.tail }

end Sys2Proof.Machine
end

