-- ==== Sys2Proof/Machine/Control.lean ====
section
/-! DEFINITION. The control rows: RESET (70_reset_and_hazards.md R140) and START (42_control.md R110). -/

namespace Sys2Proof.Machine

/-- `RESET`, enabled in any state (70_reset_and_hazards.md R140). -/
def execReset (s : State) : Result := .next (reset s)

/-- `START`, enabled in any state (42_control.md R110). -/
def execStart (s : State) : Result := .next (start s)

end Sys2Proof.Machine
end

