-- ==== Sys2Proof/Machine/Push.lean ====
section
/-! DEFINITION. The PUSH rows (41_queue_push.md R100 to R102). PUSH is enabled in every state and completes in every
state; the rows differ in the entry and in whether the queue has room. -/

namespace Sys2Proof.Machine

/-- `PUSH`, lengths 0 to 31 (41_queue_push.md R100). -/
def execPush (len : Len) (value : Value) (s : State) : Result := .next (push len value s)

/-- `PUSH`, length 32 (41_queue_push.md R100). -/
def execPush32 (value : Value) (s : State) : Result := .next (push 32#6 value s)

/-- `PUSH.FULL`: a PUSH; where `Q_COUNT` = `QDEPTH`, dropped (41_queue_push.md R101). -/
def execPushFull (len : Len) (value : Value) (s : State) : Result := .next (push len value s)

/-- `PUSH.RSVD`: a PUSH of a reserved length, dropped whatever `Q_COUNT` is (41_queue_push.md R102). -/
def execPushRsvd (len : Len) (value : Value) (s : State) : Result := .next (push len value s)

end Sys2Proof.Machine
end

