-- ==== Sys2Proof/Machine/Tick.lean ====
section
/-! DEFINITION. The three TICK rows (40_tick.md R80 to R85). They are one operation with one encoding: the state it
meets, not an encoded bit, chooses the arm (30_encoding.md R66). Each row therefore means TICK, which in the states of
the row's `when` is the row's arm (log entry 5). -/

namespace Sys2Proof.Machine

/-- `TICK.EMIT`: TICK; where ACTIVE holds, the toggle and one bit (40_tick.md R82). -/
def execTickEmit (s : State) : Result := tick s

/-- `TICK.LOAD`: TICK; where LOAD_PENDING holds, the toggle and the pop (40_tick.md R83). -/
def execTickLoad (s : State) : Result := tick s

/-- `TICK.IDLE`: TICK; where IDLE holds, the toggle alone (40_tick.md R84). -/
def execTickIdle (s : State) : Result := tick s

end Sys2Proof.Machine
end

