-- ==== Sys2Proof/Machine/Dispatch.lean ====
section
/-! DEFINITION. One arm per row of spec/opcode_table.json. -/

namespace Sys2Proof.Machine

/-- The effect of one event, named by its row (00_scope.md R8). -/
def exec (i : Instr) (s : State) : Host.Outcome State Fault Refusal :=
  match i with
  | .reset => Sys2Proof.Machine.execReset s
  | .start => Sys2Proof.Machine.execStart s
  | .tickEmit => Sys2Proof.Machine.execTickEmit s
  | .tickLoad => Sys2Proof.Machine.execTickLoad s
  | .tickIdle => Sys2Proof.Machine.execTickIdle s
  | .push len value => Sys2Proof.Machine.execPush len value s
  | .push32 value => Sys2Proof.Machine.execPush32 value s
  | .pushFull len value => Sys2Proof.Machine.execPushFull len value s
  | .pushRsvd len value => Sys2Proof.Machine.execPushRsvd len value s

end Sys2Proof.Machine
end

