-- ==== Sys2Proof/Machine/Cycle.lean ====
section
/-! DEFINITION. Events in their total order (20_memory.md R44, R46) and one system-clock cycle (30_encoding.md R61, R66;
60_exceptions.md R123, R128). -/

namespace Sys2Proof.Machine

/-- The row an event is in the state it meets (30_encoding.md R66). -/
def State.rowOf (s : State) (e : Event) : Instr := e.row s.cls (!s.pushReady)

/-- One event: the row the state gives it, executed (00_scope.md R8). -/
def doEvent (e : Event) (s : State) : Result := exec (s.rowOf e) s

/-- Events one after another, each on the state the one before left (20_memory.md R46). -/
def runEvents : List Event → State → Result
  | [], s => .next s
  | e :: es, s =>
    match doEvent e s with
    | .next t => runEvents es t
    | .fault r => .fault r
    | .refused r => .refused r

/-- `EV[3:0]` of the cycle that begins in `s`: three ports and the strobe (30_encoding.md R61). -/
def State.eventVector (s : State) : EventVector :=
  packVector s.ports.rst s.ports.start s.ports.pushValid s.strobe

/-- The operand on `push_value` and `push_len` (30_encoding.md R61, R62). -/
def State.portEntry (s : State) : Entry := packEntry s.ports.pushLen s.ports.pushValue

/-- The events of the cycle that begins in `s`, in order (60_exceptions.md R123). -/
def State.cycleEvents (s : State) : List Event := decodeCycle s.eventVector s.portEntry

/-- What a cycle does besides its events: the outside moves on, and the divider counts unless `rst` is 1
(60_exceptions.md R128; log entry 16). -/
def State.advance (s : State) : State :=
  if s.ports.rst then s.dropSample else s.countDiv.dropSample

/-- One system-clock cycle. -/
def cycle (s : State) : Result := runEvents s.cycleEvents s.advance

/-- The port sample that presents the non-tick bits of a vector and an entry (30_encoding.md R61). -/
def samplePorts (ev : EventVector) (entry : Entry) : PortSample where
  rst := ev.getLsbD 3
  start := ev.getLsbD 2
  pushValid := ev.getLsbD 1
  pushValue := entryValue entry
  pushLen := entryLen entry

/-- `s` with the next cycle's sample replaced. -/
def State.withPorts (s : State) (p : PortSample) : State := { s with inputs := p :: s.inputs.tail }

/-- `s` with the tick generator about to raise its strobe, or about not to (log entry 3). A strobe needs `RUN` = 1 and
`DIV` = 0 (60_exceptions.md R128). -/
def State.withStrobe (s : State) (tickBit : Bool) : State :=
  if tickBit then { s with run := true, div := 0 }
  else if s.strobe then { s with div := tickDiv s.cfg - 1 }
  else s

/-- `s` with a cycle's word presented at the ports and by the strobe of its next cycle; a word the decoder does not
split presents nothing (log entry 3). -/
def presentWord (s : State) (w : Nat) : State :=
  match splitWord w with
  | .ok (ev, entry) => (s.withPorts (samplePorts ev entry)).withStrobe (ev.getLsbD 0)
  | .error _ => (s.withPorts .quiet).withStrobe false

end Sys2Proof.Machine
end

