-- ==== Sys2Proof/Machine/Step.lean ====
section
/-! DEFINITION. One step of the machine is one system-clock cycle (92_eei_decisions.md D2; log entry 2). -/

namespace Sys2Proof.Machine

/-- One system-clock cycle. -/
def step (s : State) : Host.Outcome State Fault Refusal := cycle s

/-- The word's `nbits` bits presented to the block in its next cycle (log entry 3). -/
def State.withFetchWord (s : State) (nbits w : Nat) : State := presentWord s (w % 2 ^ nbits)

end Sys2Proof.Machine
end

