-- ==== Sys2Proof/Machine/Observe.lean ====
section
/-! DEFINITION. What an observer reads off the state and the trace: the queue's content (10_state.md R19), the serial
frame (30_encoding.md R65), the draining count (40_tick.md R88), the levels and samples of the pins (40_tick.md R92),
and the programs of events (30_encoding.md R69, R70). No operation calls these. -/

namespace Sys2Proof.Machine

/-- The `k`-th entry of the live window, oldest first (10_state.md R19). -/
def State.slot (s : State) (k : Nat) : Option Entry := Memory.read s.qMem (s.slotIndex k)

/-- The entries of the live window, oldest first (10_state.md R19). -/
def State.queue (s : State) : List Entry := (List.range s.qCount).filterMap s.slot

/-- The bits of a word from position `p` up to length `l`, one a tick (40_tick.md R82, R86). -/
def wordTicks (v : Value) (p l : Nat) : List (Option Bool) :=
  (List.range (l - p)).map fun k => some (valueBit v (p + k))

/-- What the ticks of an entry's frame drive on the data line: nothing in the load tick, then a bit a tick
(30_encoding.md R65). -/
def entryTicks (e : Entry) : List (Option Bool) :=
  none :: wordTicks (entryValue e) 0 (entryLen e).toNat

/-- What the ticks until the block is drained drive on the data line (40_tick.md R88). -/
def State.pendingTicks (s : State) : List (Option Bool) :=
  wordTicks s.pwValue s.pwPos.toNat s.pwLen.toNat ++ s.queue.flatMap entryTicks

/-- The pin events of ticks from clock level `c`: each toggles the clock, then drives its bit if it has one
(10_state.md R30). -/
def tickEvents : Bool → List (Option Bool) → List PinEvent
  | _, [] => []
  | c, none :: r => .clk (!c) :: tickEvents (!c) r
  | c, some b :: r => .clk (!c) :: .dat b :: tickEvents (!c) r

/-- An answer with the divider left out of sight (10_state.md R22). -/
def forgetDiv : Result → Result
  | .next t => .next { t with div := 0 }
  | .fault r => .fault r
  | .refused r => .refused r

/-- Ticks until the block is drained, `(PW_LEN - PW_POS) + sum (Li + 1)` (40_tick.md R88). -/
def State.drainTicks (s : State) : Nat :=
  (s.pwLen.toNat - s.pwPos.toNat) + (s.queue.map fun e => (entryLen e).toNat + 1).sum

/-- The level of a `dat` event. -/
def datOf : PinEvent → Option Bool
  | .dat b => some b
  | .clk _ => none

/-- The level of a `clk` event. -/
def clkOf : PinEvent → Option Bool
  | .clk b => some b
  | .dat _ => none

/-- The levels of the `dat` events of a trace. -/
def datLevels (l : List PinEvent) : List Bool := l.filterMap datOf

/-- The levels of the `clk` events of a trace. -/
def clkLevels (l : List PinEvent) : List Bool := l.filterMap clkOf

/-- What a target that samples the data line at every clock transition sees: each transition's new level and the data
level before it, `d` being the data level at the start (40_tick.md R92). -/
def edgeSamples : Bool → List PinEvent → List (Bool × Bool)
  | _, [] => []
  | d, .clk c :: r => (c, d) :: edgeSamples d r
  | _, .dat b :: r => edgeSamples b r

/-- The last level of the clock line in a trace, `c` before it. -/
def lastClk (c : Bool) (l : List PinEvent) : Bool := (clkLevels l).getLastD c

/-- The last level of the data line in a trace, `d` before it. -/
def lastDat (d : Bool) (l : List PinEvent) : Bool := (datLevels l).getLastD d

/-- The lines `tick n` of a program (30_encoding.md R70). -/
def tickLines (n : Nat) : List Event := List.replicate n .tick

/-- The line `drain` of a program, in the state it meets (30_encoding.md R70). -/
def drainLines (s : State) : List Event := tickLines s.drainTicks

/-- The entries a program pushes, in order. -/
def pushedEntries : List Event → List Entry
  | [] => []
  | .push len value :: es => packEntry len value :: pushedEntries es
  | .reset :: es => pushedEntries es
  | .start :: es => pushedEntries es
  | .tick :: es => pushedEntries es

/-- Whether an event is a push. -/
def isPush : Event → Bool
  | .push _ _ => true
  | .reset => false
  | .start => false
  | .tick => false

/-- Whether the state stores this event's entry, if it is a push (41_queue_push.md R100). -/
def State.stores (s : State) : Event → Bool
  | .push len _ => s.pushReady && lenLegal len
  | .reset => true
  | .start => true
  | .tick => true

/-- Every push of a run from `s` is stored, none dropped. -/
def allStored : List Event → State → Bool
  | [], _ => true
  | e :: es, s => s.stores e &&
    match doEvent e s with
    | .next t => allStored es t
    | .fault _ => false
    | .refused _ => false

/-- No TICK.IDLE of a run from `s` comes before the last push (40_tick.md R93). -/
def noEarlyIdle : List Event → State → Bool
  | [], _ => true
  | e :: es, s => !(s.rowOf e == .tickIdle && es.any isPush) &&
    match doEvent e s with
    | .next t => noEarlyIdle es t
    | .fault _ => false
    | .refused _ => false

/-- The entries that the TICK.LOADs of a run from `s` load, in order (20_memory.md R47). -/
def loadedEntries : List Event → State → List Entry
  | [], _ => []
  | e :: es, s =>
    (if s.rowOf e = .tickLoad then (Memory.read s.qMem s.qRd).toList else []) ++
    match doEvent e s with
    | .next t => loadedEntries es t
    | .fault _ => []
    | .refused _ => []

end Sys2Proof.Machine
end

