-- ==== Sys2Proof/Machine/ListModel.lean ====
section
/-! DEFINITION. The block with the queue as a bounded list, the other design 10_state.md R19 allows: PUSH appends at the
tail, TICK.LOAD removes the head. It has no store, count, cursor or divider. -/

namespace Sys2Proof.Machine

/-- The state of the list design. -/
structure ListState where
  clk : Bool
  pwValue : Value
  pwPos : Nat
  pwLen : Nat
  queue : List (Nat × Value)
  dat : Bool
  run : Bool
  pinLog : List PinEvent
deriving DecidableEq, Repr

/-- TICK of the list design (40_tick.md R80); none while `RUN` = 0. -/
def ListState.tick (a : ListState) : Option ListState :=
  if a.run then
    let c := !a.clk
    if a.pwPos < a.pwLen then
      let b := decide (a.pwValue.toNat / 2 ^ a.pwPos % 2 = 1)
      some { a with clk := c, dat := b, pwPos := a.pwPos + 1, pinLog := a.pinLog ++ [.clk c, .dat b] }
    else
      match a.queue with
      | (len, value) :: q =>
        some { a with clk := c, pwValue := value, pwPos := 0, pwLen := len, queue := q, pinLog := a.pinLog ++ [.clk c] }
      | [] => some { a with clk := c, pinLog := a.pinLog ++ [.clk c] }
  else none

/-- An event of the list design, for a build. -/
def ListState.event (c : Config) (a : ListState) : Event → Option ListState
  | .reset => some ⟨false, 0, 0, 0, [], c.datReset, false, []⟩
  | .start => some { a with run := true }
  | .tick => a.tick
  | .push len value =>
    if a.queue.length < c.qdepth ∧ len.toNat ≤ 32 then
      some { a with queue := a.queue ++ [(len.toNat, value)] }
    else some a

/-- What the list design sees of a state (10_state.md R19: the abstract content of the queue). -/
def State.toList (s : State) : ListState where
  clk := s.clk
  pwValue := s.pwValue
  pwPos := s.pwPos.toNat
  pwLen := s.pwLen.toNat
  queue := s.queue.map fun e => ((entryLen e).toNat, entryValue e)
  dat := s.dat
  run := s.run
  pinLog := s.pinLog

/-- The next state of an answer, as the list design sees it; none where there is none. -/
def resultToList : Result → Option ListState
  | .next t => some t.toList
  | .fault _ => none
  | .refused _ => none

end Sys2Proof.Machine
end

