-- ==== Sys2Proof/Safety.lean ====
section
/-! DEFINITION. What holds in every state a run reaches, in the terms the statements use. -/

namespace Sys2Proof.Machine

/-- The invariants of 10_state.md R15 and R19, and the range of `DIV` (R22). -/
structure State.Inv (s : State) : Prop where
  /-- `PW_POS <= PW_LEN` (R15). -/
  pos_le_len : s.pwPos.toNat ≤ s.pwLen.toNat
  /-- `PW_LEN <= 32` (R15). -/
  len_le : s.pwLen.toNat ≤ 32
  /-- `Q_COUNT <= QDEPTH` (R19 a). -/
  count_le : s.qCount ≤ s.cfg.qdepth
  /-- `Q_RD < QDEPTH` (R19 b). -/
  rd_lt : s.qRd < s.cfg.qdepth
  /-- Every entry of the live window has been written and has `len <= 32` (R19 c). -/
  live : ∀ k < s.qCount, (s.slot k).any (fun e => lenLegal (entryLen e)) = true
  /-- The store is in its canonical form. -/
  mem_wf : Memory.wf s.qMem = true
  /-- Every index of the store is below `QDEPTH` (20_memory.md R40). -/
  mem_lt : ∀ c ∈ s.qMem, c.1 < s.cfg.qdepth
  /-- `DIV < TICK_DIV` (R22). -/
  div_lt : s.div < tickDiv s.cfg

/-- The pins show the last levels the trace records, and before any the reset levels (10_state.md R20, R23, R30). -/
def State.PinsFollowLog (s : State) : Prop :=
  lastClk false s.pinLog = s.clk ∧ lastDat s.cfg.datReset s.pinLog = s.dat

/-- A run of events that completes: it meets no fault and no refusal (00_scope.md R8). -/
def Completes (es : List Event) (s : State) : Prop := ∃ t, runEvents es s = .next t

end Sys2Proof.Machine
end

