-- ==== Sys2Proof/WellFormed.lean ====
section
/-! DEFINITION. Which terms of `Instr` are rows of spec/opcode_table.json: the bounds the table puts on `len`. -/

namespace Sys2Proof

/-- The operand masks of the table: row `PUSH` "len 0 to 31" has entry bit 37 clear, row `PUSH.RSVD` has bit 37 set and
bits 36:32 not all 0 (30_encoding.md R66, R67). The other rows take any operand. -/
def Instr.wellFormed : Instr → Bool
  | .reset => true
  | .start => true
  | .tickEmit => true
  | .tickLoad => true
  | .tickIdle => true
  | .push len _ => decide (len.toNat ≤ 31)
  | .push32 _ => true
  | .pushFull _ _ => true
  | .pushRsvd len _ => decide (33 ≤ len.toNat)

end Sys2Proof
end

