-- ==== Sys2Proof/Certificates/Slice0/Obligations.lean ====
section
/-! DEFINITION. The statements for the provers. Each is about every build, because it is about every `cfg` a state can
carry. -/

open Sys2Proof Sys2Proof.Machine

/-! ## Reset and control -/

/-- 10_state.md R29: every element after RESET, and the class and outputs then. `DAT_RESET` is the build's (0 in this
hardware); `Q_MEM` is unspecified, so nothing is said of it. -/
def Obligations.ResetTakesResetValues : Prop :=
  ∀ s : State, ∃ t, exec .reset s = .next t ∧ t.cfg = s.cfg ∧
    t.clk = false ∧ t.pwValue = 0 ∧ t.pwPos = 0 ∧ t.pwLen = 0 ∧ t.qCount = 0 ∧ t.qRd = 0 ∧
    t.dat = s.cfg.datReset ∧ t.run = false ∧ t.div = tickDiv s.cfg - 1 ∧ t.pinLog = [] ∧
    t.idle = true ∧ t.pushReady = true ∧ t.icspClk = false ∧ t.icspDat = s.cfg.datReset

/-- RESET answers the same from every state of a build, and in the state it produces it changes nothing. That no store
index reads a value afterwards is the model's (log entry 8), and so is that the coming samples stay (log entry 2). -/
def Obligations.ResetForgetsWhatWasBefore : Prop :=
  ∀ s s' : State, s.cfg = s'.cfg → s.inputs = s'.inputs →
    exec .reset s = exec .reset s' ∧
    ∃ t, exec .reset s = .next t ∧ exec .reset t = .next t ∧ t.inputs = s.inputs ∧ ∀ i, Memory.read t.qMem i = none

/-- The machine's reset state is the reference build's (the model's choice, log entry 1), and a cycle in which the
outside presents nothing leaves it as it is (log entry 3). -/
def Obligations.NothingHappensFromResetAlone : Prop :=
  State.reset.cfg.qdepth = 4 ∧ State.reset.cfg.rate = 200000 ∧ State.reset.cfg.fSysMhz = 1 ∧
    State.reset.cfg.datReset = false ∧ State.reset.inputs = [] ∧ exec .reset State.reset = .next State.reset ∧
    step State.reset = .next State.reset

/-- 42_control.md R110. -/
def Obligations.StartSetsRunOnce : Prop :=
  ∀ s : State,
    (s.run = false → exec .start s = .next { s with run := true, div := tickDiv s.cfg - 1 }) ∧
    (s.run = true → exec .start s = .next s)

/-- 10_state.md R21 and 42_control.md R112: nothing but RESET clears `RUN`, nothing but START sets it, for events and for
cycles. -/
def Obligations.OnlyResetStopsTheTicks : Prop :=
  (∀ (s t : State) (e : Event), doEvent e s = .next t →
    (s.run = true → e ≠ .reset → t.run = true) ∧ (s.run = false → e ≠ .start → t.run = false)) ∧
  (∀ s t : State, step s = .next t →
    (s.run = true → s.ports.rst = false → t.run = true) ∧ (s.run = false → s.ports.start = false → t.run = false))

/-- 42_control.md R111: while the host neither starts nor resets a stopped block, every cycle completes and the pins
stay, whatever the producer pushes. -/
def Obligations.PinsStayUntilStart : Prop :=
  ∀ (s : State) (n : Nat), s.run = false → (∀ p ∈ s.inputs, p.start = false ∧ p.rst = false) →
    ∃ t, Sys2Proof.core.run n s = .next t ∧ t.run = false ∧ t.icspClk = s.icspClk ∧ t.icspDat = s.icspDat ∧
      t.pinLog = s.pinLog

/-! ## TICK -/

/-- 40_tick.md R82, with the toggle of R81: a TICK in an ACTIVE state. The record names all that changes. That the rows
TICK.LOAD and TICK.IDLE mean TICK there too, where their `when` does not hold, is deduced from R66 and R85 (log entry 5),
and so is the bit read with `PW_LEN` above 32 (log entry 11). -/
def Obligations.TickEmitDrivesOneBit : Prop :=
  ∀ (i : Instr) (s : State), i = .tickEmit ∨ i = .tickLoad ∨ i = .tickIdle →
    s.run = true → s.pwPos.toNat < s.pwLen.toNat →
    let b := decide (s.pwValue.toNat / 2 ^ s.pwPos.toNat % 2 = 1)
    ∃ t, exec i s = .next t ∧
      t = { s with clk := !s.clk, dat := b, pwPos := t.pwPos, pinLog := s.pinLog ++ [.clk (!s.clk), .dat b] } ∧
      t.pwPos.toNat = s.pwPos.toNat + 1 ∧
      (t.active = false ↔ t.pwPos = t.pwLen) ∧
      (s.pwLen.toNat ≤ 32 → s.pwPos.toNat ≤ 31 ∧ t.pwPos.toNat ≤ 32)

/-- 40_tick.md R83, with the toggle of R81: a TICK in an exhausted state with entries queued. The entry is given by its
number, `len * 2^32 + value`. That the rows TICK.EMIT and TICK.IDLE mean TICK there too, where their `when` does not hold,
is deduced from R66 and R85 (log entry 5), and so is the arm with `PW_POS` above `PW_LEN` (log entry 11). -/
def Obligations.TickLoadPopsTheEntryAtTheCursor : Prop :=
  ∀ (i : Instr) (s : State) (e : Entry) (len : Len) (value : Value),
    i = .tickEmit ∨ i = .tickLoad ∨ i = .tickIdle →
    s.run = true → s.pwLen.toNat ≤ s.pwPos.toNat → 0 < s.qCount →
    Memory.read s.qMem s.qRd = some e → e.toNat = len.toNat * 2 ^ 32 + value.toNat →
    ∃ t, exec i s = .next t ∧
      t = { s with
        clk := !s.clk, pwValue := value, pwPos := 0, pwLen := len, qRd := (s.qRd + 1) % s.cfg.qdepth,
        qCount := s.qCount - 1, pinLog := s.pinLog ++ [.clk (!s.clk)] } ∧
      (t.active = true ↔ 0 < len.toNat) ∧
      (s.qCount ≤ s.cfg.qdepth → t.pushReady = true)

/-- 40_tick.md R84, with the toggle of R81: a TICK in an exhausted state with an empty queue. That the rows TICK.EMIT and
TICK.LOAD mean TICK there too, where their `when` does not hold, is deduced from R66 and R85 (log entry 5), and so is the
arm with `PW_POS` above `PW_LEN` (log entry 11). -/
def Obligations.TickIdleTogglesTheClockAlone : Prop :=
  ∀ (i : Instr) (s : State), i = .tickEmit ∨ i = .tickLoad ∨ i = .tickIdle →
    s.run = true → s.pwLen.toNat ≤ s.pwPos.toNat → s.qCount = 0 →
    exec i s = .next { s with clk := !s.clk, pinLog := s.pinLog ++ [.clk (!s.clk)] }

/-- Where a TICK stops, in the model's terms: it is refused by name while `RUN` = 0, which R80 does not enable (log entry
6), and a load from an index nothing has written faults (log entry 7). It stops nowhere else, whichever TICK row names it
(log entry 5), also outside the invariant (log entry 11). -/
def Obligations.TickStopsOnlyByName : Prop :=
  ∀ (i : Instr) (s : State), i = .tickEmit ∨ i = .tickLoad ∨ i = .tickIdle →
    (∀ r, exec i s = .refused r ↔ s.run = false ∧ r = .tickNotEnabled) ∧
    (∀ r, exec i s = .fault r ↔
      s.run = true ∧ s.pwLen.toNat ≤ s.pwPos.toNat ∧ 0 < s.qCount ∧ Memory.read s.qMem s.qRd = none ∧
        r = .unwrittenEntry)

/-- 10_state.md R25: in a state that meets the invariant exactly one of ACTIVE, LOAD_PENDING, IDLE holds, and it is the
class that chooses a TICK's arm; the choice does not depend on `CLK` (40_tick.md R85). -/
def Obligations.ExactlyOneClassHolds : Prop :=
  ∀ s : State, s.Inv →
    (s.exhausted = true ↔ ¬ s.pwPos.toNat < s.pwLen.toNat) ∧
    (s.active = true ↔ s.cls = .active) ∧ (s.loadPending = true ↔ s.cls = .loadPending) ∧
    (s.idle = true ↔ s.cls = .idle) ∧
    (s.active.toNat + s.loadPending.toNat + s.idle.toNat = 1) ∧
    ∀ c : Bool, ({ s with clk := c } : State).cls = s.cls

/-- The row the decoder selects for an enabled event meets the `when` of its row in spec/opcode_table.json. -/
def Obligations.SelectedRowMeetsItsCondition : Prop :=
  ∀ (s : State) (e : Event), s.Inv → (e = .tick → s.run = true) → rowWhen s (s.rowOf e) = true

/-- 40_tick.md R90: the transition table. -/
def Obligations.ClassTransitionsFollowTheTable : Prop :=
  ∀ s t : State, s.Inv →
    (doEvent .tick s = .next t →
      (s.cls = .active → s.pwPos.toNat + 1 < s.pwLen.toNat → t.cls = .active) ∧
      (s.cls = .active → s.pwPos.toNat + 1 = s.pwLen.toNat → 0 < s.qCount → t.cls = .loadPending) ∧
      (s.cls = .active → s.pwPos.toNat + 1 = s.pwLen.toNat → s.qCount = 0 → t.cls = .idle) ∧
      (s.cls = .loadPending → 0 < t.pwLen.toNat → t.cls = .active) ∧
      (s.cls = .loadPending → t.pwLen.toNat = 0 → 1 < s.qCount → t.cls = .loadPending) ∧
      (s.cls = .loadPending → t.pwLen.toNat = 0 → s.qCount = 1 → t.cls = .idle) ∧
      (s.cls = .idle → t.cls = .idle)) ∧
    (∀ len value, doEvent (.push len value) s = .next t →
      (s.cls = .idle → len.toNat ≤ 32 → t.cls = .loadPending) ∧
      (s.cls = .idle → 32 < len.toNat → t.cls = .idle) ∧
      (s.cls = .loadPending → t.cls = .loadPending) ∧ (s.cls = .active → t.cls = .active)) ∧
    (doEvent .reset s = .next t → t.cls = .idle) ∧
    (doEvent .start s = .next t → t.cls = s.cls)

/-! ## PUSH -/

/-- 41_queue_push.md R100: a PUSH, whichever PUSH row names it. With room and a legal length it stores: the record names
all that changes, and the store is given by what each index reads afterwards. Otherwise it changes nothing. That a PUSH
row means PUSH also where its `when` does not hold is deduced from R66 (log entry 5), and so is the drop with `Q_COUNT`
above `QDEPTH` (log entry 11). -/
def Obligations.PushStoresTheEntryOrDropsIt : Prop :=
  ∀ (i : Instr) (s : State) (len : Len) (value : Value),
    i = .push len value ∨ (i = .push32 value ∧ len = 32) ∨ i = .pushFull len value ∨ i = .pushRsvd len value →
    (s.qCount < s.cfg.qdepth → len.toNat ≤ 32 →
      ∃ (t : State) (e : Entry), exec i s = .next t ∧
        t = { s with qMem := t.qMem, qCount := s.qCount + 1 } ∧
        e.toNat = len.toNat * 2 ^ 32 + value.toNat ∧
        (∀ j, Memory.read t.qMem j =
          if j = (s.qRd + s.qCount) % s.cfg.qdepth then some e else Memory.read s.qMem j) ∧
        (∀ k < s.qCount, (s.qRd + k) % s.cfg.qdepth ≠ (s.qRd + s.qCount) % s.cfg.qdepth) ∧
        (s.qCount = 0 → s.qRd < s.cfg.qdepth → Memory.read t.qMem s.qRd = some e) ∧
        (t.pushReady = false ↔ t.qCount = t.cfg.qdepth) ∧
        (s.idle = true → t.loadPending = true)) ∧
    (s.cfg.qdepth ≤ s.qCount ∨ 33 ≤ len.toNat → exec i s = .next s)

/-- 41_queue_push.md R101: a PUSH into a full queue changes nothing; and `push_ready`, seen as 1, stays 1 through every
other event. That the other PUSH rows mean PUSH there too, where their `when` does not hold, is deduced from R66 (log
entry 5), and so is the drop with `Q_COUNT` above `QDEPTH` (log entry 11); which row a reserved length is in a full queue
is the model's choice (log entry 9). -/
def Obligations.PushIntoFullQueueIsDropped : Prop :=
  (∀ (i : Instr) (s : State) (len : Len) (value : Value),
    i = .push len value ∨ i = .push32 value ∨ i = .pushFull len value ∨ i = .pushRsvd len value →
    s.cfg.qdepth ≤ s.qCount → exec i s = .next s) ∧
  (∀ (e : Event) (s t : State), isPush e = false → s.pushReady = true → doEvent e s = .next t → t.pushReady = true)

/-- 41_queue_push.md R102: a PUSH of a reserved length changes nothing, whatever `Q_COUNT` is. That the rows PUSH and
PUSH.FULL mean PUSH with such a length too is deduced from R66 (log entry 5); which row it is in a full queue is the
model's choice (log entry 9). -/
def Obligations.PushOfReservedLengthIsDropped : Prop :=
  ∀ (i : Instr) (s : State) (len : Len) (value : Value),
    i = .push len value ∨ i = .pushFull len value ∨ i = .pushRsvd len value →
    33 ≤ len.toNat → exec i s = .next s

/-- 20_memory.md R48: an entry pushed into an idle running block is loaded by the very next TICK. -/
def Obligations.PushIsSeenByTheNextTick : Prop :=
  ∀ (s : State) (len : Len) (value : Value), s.Inv → s.run = true → s.idle = true → len.toNat ≤ 32 →
    ∃ t, runEvents [.push len value, .tick] s = .next t ∧
      t.pwValue = value ∧ t.pwLen = len ∧ t.pwPos = 0 ∧ t.qCount = 0 ∧ t.qRd = (s.qRd + 1) % s.cfg.qdepth ∧
      t.clk = (!s.clk) ∧ t.dat = s.dat ∧ t.pinLog = s.pinLog ++ [.clk (!s.clk)]

/-- 10_state.md R10, the column "written by", and R28, R30: an element that an event changes is one that this event
writes, whichever row names it (log entry 5); the build never changes, and only RESET shortens PINLOG. -/
def Obligations.EachElementHasItsWriters : Prop :=
  ∀ (i : Instr) (s t : State), exec i s = .next t →
    let e := i.event
    (t.clk ≠ s.clk → e = .tick ∨ e = .reset) ∧
    (t.pwValue ≠ s.pwValue → (e = .tick ∧ s.cls = .loadPending) ∨ e = .reset) ∧
    (t.pwPos ≠ s.pwPos → (e = .tick ∧ s.cls ≠ .idle) ∨ e = .reset) ∧
    (t.pwLen ≠ s.pwLen → (e = .tick ∧ s.cls = .loadPending) ∨ e = .reset) ∧
    (t.qCount ≠ s.qCount → (e = .tick ∧ s.cls = .loadPending) ∨ isPush e = true ∨ e = .reset) ∧
    (t.qRd ≠ s.qRd → (e = .tick ∧ s.cls = .loadPending) ∨ e = .reset) ∧
    (t.qMem ≠ s.qMem → isPush e = true ∨ e = .reset) ∧
    (t.dat ≠ s.dat → (e = .tick ∧ s.cls = .active) ∨ e = .reset) ∧
    (t.run ≠ s.run → e = .start ∨ e = .reset) ∧
    (t.div ≠ s.div → e = .start ∨ e = .reset) ∧
    (t.pinLog ≠ s.pinLog → e = .tick ∨ e = .reset) ∧
    (e ≠ .reset → s.pinLog <+: t.pinLog) ∧
    t.cfg = s.cfg ∧ t.inputs = s.inputs

/-- 10_state.md R10 and R22: no operation's result depends on `DIV`. -/
def Obligations.NoResultDependsOnTheDivider : Prop :=
  ∀ (i : Instr) (s : State) (d : Nat),
    forgetDiv (exec i { s with div := d }) = forgetDiv (exec i s)

/-! ## Decoding and the cycle -/

/-- Words written out from 30_encoding.md R61, R62, R69 (`EV` in bits 3:0, the entry from bit 8 on: the layout is the
model's, log entry 4; the classes are those of the state after reset, log entry 5). -/
def Obligations.WordsDecodeToTheirRows : Prop :=
  decodeTableWord 8 0x8 = some .reset ∧
  decodeTableWord 8 0xF = some .reset ∧
  decodeTableWord 8 0x4 = some .start ∧
  decodeTableWord 8 0x1 = some .tickIdle ∧
  decodeRow .active false 0x1 = .ok .tickEmit ∧
  decodeRow .loadPending true 0x1 = .ok .tickLoad ∧
  decodeTableWord 48 0x040000000B02 = some (.push 4 0xB) ∧
  decodeTableWord 48 0x11DEADBEEF02 = some (.push 17 0xDEADBEEF) ∧
  decodeTableWord 48 0x208000000102 = some (.push32 0x80000001) ∧
  decodeRow .idle true 0x010000000102 = .ok (.pushFull 1 1) ∧
  decodeTableWord 48 0x21FFFFFFFF02 = some (.pushRsvd 33 0xFFFFFFFF) ∧
  decodeTableWord 8 0x0 = none

/-- Decode of encode of every row is the row, with every operand at every value, in each context that selects the row. A
reserved entry is `PUSH.RSVD` also when the queue is full (log entry 9). -/
def Obligations.DecodeInvertsEncode : Prop :=
  (∀ cls full, decodeRow cls full (encode .reset) = .ok .reset) ∧
  (∀ cls full, decodeRow cls full (encode .start) = .ok .start) ∧
  (∀ full, decodeRow .active full (encode .tickEmit) = .ok .tickEmit) ∧
  (∀ full, decodeRow .loadPending full (encode .tickLoad) = .ok .tickLoad) ∧
  (∀ full, decodeRow .idle full (encode .tickIdle) = .ok .tickIdle) ∧
  (∀ cls len value, (Instr.push len value).wellFormed = true →
    decodeRow cls false (encode (.push len value)) = .ok (.push len value)) ∧
  (∀ cls value, decodeRow cls false (encode (.push32 value)) = .ok (.push32 value)) ∧
  (∀ (cls : StateClass) (len : Len) (value : Value), len.toNat ≤ 32 →
    decodeRow cls true (encode (.pushFull len value)) = .ok (.pushFull len value)) ∧
  (∀ cls full len value, (Instr.pushRsvd len value).wellFormed = true →
    decodeRow cls full (encode (.pushRsvd len value)) = .ok (.pushRsvd len value))

/-- 30_encoding.md R66: the events of a cycle, by the bits of its vector, and their order. -/
def Obligations.CycleEventsAreTheVectorsBits : Prop :=
  ∀ (rst start pushValid tick : Bool) (entry : Entry),
    let es := decodeCycle (packVector rst start pushValid tick) entry
    (.reset ∈ es ↔ rst = true) ∧
    (.start ∈ es ↔ rst = false ∧ start = true) ∧
    (.tick ∈ es ↔ rst = false ∧ tick = true) ∧
    (∀ (len : Len) (value : Value), .push len value ∈ es ↔
      rst = false ∧ pushValid = true ∧ entry.toNat = len.toNat * 2 ^ 32 + value.toNat) ∧
    es.Pairwise (fun a b => (a = .start ∧ b ≠ .start) ∨ (a = .tick ∧ isPush b = true))

/-- A word the encoder writes, presented to the block, is the one event of its next cycle, and that cycle executes the
row the state gives it; and the first event of any word the decoder reads is the first event of the cycle it is presented
in after reset. -/
def Obligations.PresentedWordIsTheCyclesEvent : Prop :=
  (∀ (s : State) (i : Instr),
    let p := s.withFetchWord 48 (encode i)
    p.cycleEvents = [i.event] ∧ step p = exec (p.rowOf i.event) p.advance) ∧
  (∀ (n w : Nat) (i : Instr), decodeTableWord n w = some i →
    ∃ es, (State.reset.withFetchWord n w).cycleEvents = i.event :: es ∧
      (State.reset.withFetchWord n w).rowOf i.event = i)

/-- A step runs the decoded row: with one event in the cycle it is `exec` of the row the state gives the event, on the
state the cycle's own bookkeeping leaves; with none it is that bookkeeping. -/
def Obligations.StepRunsTheDecodedRow : Prop :=
  ∀ s : State,
    (∀ e, s.cycleEvents = [e] → step s = exec (s.rowOf e) s.advance) ∧
    (s.cycleEvents = [] → step s = .next s.advance) ∧
    s.advance = { s with
      inputs := s.inputs.tail
      div := if s.ports.rst then s.div else if s.run then (if s.div = 0 then tickDiv s.cfg - 1 else s.div - 1)
        else s.div }

/-- 60_exceptions.md R123: `rst` wins over everything; otherwise START, TICK, PUSH, each on the state the one before
left; START beside a TICK changes nothing. -/
def Obligations.EventsOfACycleHappenInOrder : Prop :=
  ∀ s : State,
    (s.ports.rst = true → step s = .next (State.resetWith s.cfg s.inputs.tail)) ∧
    (s.ports.rst = false → ∀ t, step s = .next t ↔
      ∃ a b,
        (if s.ports.start then exec .start s.advance = .next a else a = s.advance) ∧
        (if s.strobe then exec (a.rowOf .tick) a = .next b else b = a) ∧
        (if s.ports.pushValid then
          exec (b.rowOf (.push s.ports.pushLen s.ports.pushValue)) b = .next t else t = b)) ∧
    (s.strobe = true → exec .start s.advance = .next s.advance)

/-- The two cases 60_exceptions.md R123 (b) spells out: a push beside the load of a full queue takes the slot just freed;
a push beside a tick of an idle block is not seen by that tick. -/
def Obligations.PushBesideATickComesAfterIt : Prop :=
  ∀ s : State, s.Inv → s.ports.rst = false → s.strobe = true → s.ports.pushValid = true →
    s.ports.pushLen.toNat ≤ 32 →
    ∃ t, step s = .next t ∧ t.clk = (!s.clk) ∧
      (s.cls = .loadPending → s.qCount = s.cfg.qdepth →
        t.qCount = s.cfg.qdepth ∧ t.pwPos = 0 ∧
        Memory.read t.qMem s.qRd = some (packEntry s.ports.pushLen s.ports.pushValue)) ∧
      (s.cls = .idle → t.dat = s.dat ∧ t.pwValue = s.pwValue ∧ t.qCount = 1 ∧ t.qRd = s.qRd ∧
        t.pinLog = s.pinLog ++ [.clk (!s.clk)] ∧
        Memory.read t.qMem s.qRd = some (packEntry s.ports.pushLen s.ports.pushValue))

/-! ## Invariants -/

/-- The invariant holds in the reset state of every build. -/
def Obligations.InvariantHoldsAfterReset : Prop :=
  (∀ (c : Config) (inputs : List PortSample), (State.resetWith c inputs).Inv) ∧
  (∀ (c : Config) (inputs : List PortSample), (State.resetWith c inputs).PinsFollowLog) ∧ State.reset.Inv

/-- 10_state.md R15 and R19: every step keeps the invariant. -/
def Obligations.StepKeepsTheInvariant : Prop :=
  ∀ s t : State, s.Inv → step s = .next t → t.Inv

/-- 60_exceptions.md R120: from a state that meets the invariant no step faults or is refused, whatever the outside
presents. -/
def Obligations.StepAlwaysAnswersNext : Prop :=
  ∀ s : State, s.Inv → ∃ t, step s = .next t

/-- 10_state.md R23, R30: every step keeps the pins at the last levels PINLOG records. -/
def Obligations.StepKeepsPinsAtLoggedLevels : Prop :=
  ∀ s t : State, s.PinsFollowLog → step s = .next t → t.PinsFollowLog

/-- 10_state.md R10, R22: the register widths hold every value a state that meets the invariant has. -/
def Obligations.RegisterWidthsSuffice : Prop :=
  ∀ s : State, s.Inv →
    s.qCount < 2 ^ qCountWidth s.cfg ∧ s.qRd < 2 ^ qRdWidth s.cfg ∧ s.div < 2 ^ divWidth s.cfg

/-- 10_state.md R19: the ring and the bounded list are the same block. Every event answers, as the list design sees it,
what the list design answers, and stops exactly where that does. -/
def Obligations.RingRefinesTheList : Prop :=
  ∀ (s : State) (e : Event), s.Inv → resultToList (doEvent e s) = s.toList.event s.cfg e

/-! ## The laws -/

/-- 40_tick.md R86: a word just loaded goes out in exactly as many ticks as it is long, bit `k` at tick `k`, whatever
pushes and starts come between. -/
def Obligations.EmissionLaw : Prop :=
  ∀ (s : State) (es : List Event), s.run = true → s.pwPos = 0 → .reset ∉ es →
    es.count .tick ≤ s.pwLen.toNat →
    ∃ t, runEvents es s = .next t ∧
      datLevels t.pinLog = datLevels s.pinLog ++
        (List.range (es.count .tick)).map (fun k => decide (s.pwValue.toNat / 2 ^ k % 2 = 1)) ∧
      (∀ k, es.count .tick = k + 1 → t.dat = decide (s.pwValue.toNat / 2 ^ k % 2 = 1)) ∧
      t.pwPos.toNat = es.count .tick ∧ t.pwValue = s.pwValue ∧ t.pwLen = s.pwLen ∧
      (t.exhausted = true ↔ es.count .tick = s.pwLen.toNat)

/-- 40_tick.md R87: ticks of an idle block change `CLK` alone (and log it), and only a push ends the idling. -/
def Obligations.IdleLaw : Prop :=
  (∀ (s : State) (n : Nat), s.run = true → s.idle = true →
    runEvents (tickLines n) s =
      .next { s with
        clk := s.clk ^^ decide (n % 2 = 1)
        pinLog := s.pinLog ++ (List.range n).map (fun k => .clk (s.clk ^^ decide (k % 2 = 0))) }) ∧
  (∀ (s t : State) (e : Event), s.idle = true → doEvent e s = .next t → t.idle = false → isPush e = true)

/-- 40_tick.md R88: with nothing pushed, the block is IDLE after exactly `T` ticks and not before; so many of them emit
and so many load; and what each tick drives. -/
def Obligations.DrainingLaw : Prop :=
  ∀ s : State, s.Inv → s.run = true →
    let lens := s.queue.map fun e => (entryLen e).toNat
    let T := (s.pwLen.toNat - s.pwPos.toNat) + (lens.map (· + 1)).sum
    s.queue.length = s.qCount ∧
    (∀ n < T, ∃ t, runEvents (tickLines n) s = .next t ∧ t.idle = false) ∧
    ∃ t, runEvents (tickLines T) s = .next t ∧ t.idle = true ∧
      t.pinLog = s.pinLog ++ tickEvents s.clk s.pendingTicks ∧
      s.pendingTicks.length = T ∧
      (datLevels (tickEvents s.clk s.pendingTicks)).length = (s.pwLen.toNat - s.pwPos.toNat) + lens.sum ∧
      loadedEntries (tickLines T) s = s.queue ∧
      (s.pwPos = s.pwLen → ∀ (i : Nat) (e : Entry), s.queue[i]? = some e →
        let ti := 1 + ((lens.take i).map (· + 1)).sum
        s.pendingTicks[ti - 1]? = some none ∧
        ∀ j < (entryLen e).toNat,
          s.pendingTicks[ti + 1 + j - 1]? = some (some (decide ((entryValue e).toNat / 2 ^ j % 2 = 1))))

/-- 40_tick.md R89: the clock level is the parity of the ticks, whatever pushes and starts come between. -/
def Obligations.ClockParityLaw : Prop :=
  ∀ (s t : State) (es : List Event), .reset ∉ es → runEvents es s = .next t →
    t.clk = (s.clk ^^ decide (es.count .tick % 2 = 1)) ∧
    clkLevels t.pinLog =
      clkLevels s.pinLog ++ (List.range (es.count .tick)).map (fun k => s.clk ^^ decide (k % 2 = 0))

/-- 20_memory.md R47: what has been loaded and what still waits is what has been pushed, in order. -/
def Obligations.FifoLaw : Prop :=
  (∀ (s t : State) (es : List Event), s.Inv → .reset ∉ es → allStored es s = true → runEvents es s = .next t →
    loadedEntries es s ++ t.queue = s.queue ++ pushedEntries es) ∧
  (∀ (c : Config) (inputs : List PortSample) (t : State) (es : List Event), .reset ∉ es →
    allStored es (State.resetWith c inputs) = true → runEvents es (State.resetWith c inputs) = .next t →
    loadedEntries es (State.resetWith c inputs) <+: pushedEntries es ∧
      (loadedEntries es (State.resetWith c inputs)).length + t.qCount = (pushedEntries es).length)

/-- 30_encoding.md R65: the frame of an entry: a load tick that leaves the data line, then a bit a tick. -/
def Obligations.FrameOfAnEntry : Prop :=
  ∀ (s : State) (e : Entry) (j : Nat), s.Inv → s.run = true → s.cls = .loadPending →
    Memory.read s.qMem s.qRd = some e → j ≤ (entryLen e).toNat →
    ∃ t, runEvents (tickLines (j + 1)) s = .next t ∧
      t.pwPos.toNat = j ∧
      t.pinLog = s.pinLog ++ .clk (!s.clk) ::
        (List.range j).flatMap (fun k =>
          [.clk (s.clk ^^ decide (k % 2 = 1)), .dat (decide ((entryValue e).toNat / 2 ^ k % 2 = 1))]) ∧
      (j = (entryLen e).toNat → 1 < s.qCount → t.cls = .loadPending)

/-- 30_encoding.md R64: two entries with equal length and equal low bits give the same pin activity. -/
def Obligations.BitsAboveTheLengthDoNotShow : Prop :=
  ∀ (s : State) (len : Len) (v v' : Value) (n : Nat), s.Inv → s.run = true →
    v.toNat % 2 ^ len.toNat = v'.toNat % 2 ^ len.toNat →
    ∃ t t', runEvents (.push len v :: tickLines n) s = .next t ∧
      runEvents (.push len v' :: tickLines n) s = .next t' ∧
      t.pinLog = t'.pinLog ∧ t.clk = t'.clk ∧ t.dat = t'.dat

/-- 40_tick.md R92: what a target that samples at every clock transition sees of a frame: the old level twice, then the
bits, each one tick late, the last at the tick after the frame. -/
def Obligations.SamplingLaw : Prop :=
  ∀ (s : State) (e : Entry), s.Inv → s.run = true → s.cls = .loadPending → Memory.read s.qMem s.qRd = some e →
    ∃ (t : State) (new : List PinEvent), runEvents (tickLines ((entryLen e).toNat + 2)) s = .next t ∧
      t.pinLog = s.pinLog ++ new ∧
      (edgeSamples s.dat new).map Prod.snd =
        s.dat :: s.dat ::
          (List.range (entryLen e).toNat).map (fun k => decide ((entryValue e).toNat / 2 ^ k % 2 = 1))

/-- 40_tick.md R93: two runs from reset that push the same entries in the same order, none dropped, and in neither of
which the block idles before the last push, give the same PINLOG after equally many ticks. -/
def Obligations.IndependenceLaw : Prop :=
  ∀ (c : Config) (inputs : List PortSample) (es es' : List Event) (t t' : State),
    let s := State.resetWith c inputs
    .reset ∉ es → .reset ∉ es' → pushedEntries es = pushedEntries es' → es.count .tick = es'.count .tick →
    allStored es s = true → allStored es' s = true → noEarlyIdle es s = true → noEarlyIdle es' s = true →
    runEvents es s = .next t → runEvents es' s = .next t' →
    t.pinLog = t'.pinLog

/-! ## Timing -/

/-- 60_exceptions.md R127: the period, its rounding, its least value, and the rates refused. That `TICK_DIV` is at least 5,
and that a build with `QDEPTH` = 0 or `F_SYS_MHZ` = 0 is refused too, rests on 00_scope.md R5 and U4 of
93_implementation_defined.md; that the refusal is `buildConfig`'s is deduced (log entry 14). -/
def Obligations.PeriodIsTheRoundedQuotient : Prop :=
  (∀ c : Config,
    tickPeriodUs c * c.rate ≤ 1000000 ∧ 1000000 < (tickPeriodUs c + 1) * c.rate ∧ 5 ≤ tickPeriodUs c ∧
      clockLinePeriodUs c = 2 * tickPeriodUs c ∧ 5 ≤ tickDiv c ∧
      (c.rate = 200000 → tickPeriodUs c = 5) ∧ (c.rate = 100000 → tickPeriodUs c = 10) ∧
      (c.rate = 3 → tickPeriodUs c = 333333) ∧ (c.rate = 1 → tickPeriodUs c = 1000000)) ∧
  (∀ q r f d, buildConfig q r f d = none ↔ q = 0 ∨ r = 0 ∨ 200000 < r ∨ f = 0) ∧
  (∀ q r f d c, buildConfig q r f d = some c → c.qdepth = q ∧ c.rate = r ∧ c.fSysMhz = f ∧ c.datReset = d)

/-- 60_exceptions.md R128: in `n` cycles without a reset the block ticks exactly as often as the divider strikes; so the
first tick after a START comes `TICK_DIV` cycles later and each next one `TICK_DIV` cycles after the one before. -/
def Obligations.TicksComeOncePerPeriod : Prop :=
  (∀ (s : State) (n : Nat), s.Inv → s.run = true → (∀ p ∈ s.inputs, p.rst = false) →
    ∃ t, Sys2Proof.core.run n s = .next t ∧
      (clkLevels t.pinLog).length = (clkLevels s.pinLog).length + (n + (tickDiv s.cfg - 1 - s.div)) / tickDiv s.cfg) ∧
  (∀ (s : State) (n : Nat), s.Inv → s.run = false → s.ports.start = true → (∀ p ∈ s.inputs, p.rst = false) →
    ∃ t, Sys2Proof.core.run (n + 1) s = .next t ∧
      (clkLevels t.pinLog).length = (clkLevels s.pinLog).length + n / tickDiv s.cfg)

/-- 70_reset_and_hazards.md R153: an exhausted block that has just ticked (or just started) has sent its `N` queued entries
after exactly `sum (Li + 1) * P_US` microseconds of `F_SYS_MHZ` cycles each, and not before. -/
def Obligations.QueuedEntriesGoOutInTheirTime : Prop :=
  ∀ (s : State) (n : Nat), s.Inv → s.run = true → s.inputs = [] → s.pwPos = s.pwLen → s.div = tickDiv s.cfg - 1 →
    ∃ t, Sys2Proof.core.run n s = .next t ∧
      (t.idle = true ↔ sendAllTimeUs s.cfg (s.queue.map fun e => (entryLen e).toNat) * s.cfg.fSysMhz ≤ n)
end

