-- ==== Sys2Proof/Laws/Decode.lean ====
section
/-! SUPPORT. The small laws of the entry format and the event vector. -/

namespace Sys2Proof

/-- The bits of an entry: the value's low, the length's above them (30_encoding.md R62). -/
theorem getLsbD_packEntry (len : Len) (value : Value) (i : Nat) :
    (packEntry len value).getLsbD i = if i < 32 then value.getLsbD i else len.getLsbD (i - 32) :=
  BitVec.getLsbD_append

@[simp] theorem entryLen_packEntry (len : Len) (value : Value) : entryLen (packEntry len value) = len := by
  apply BitVec.eq_of_getLsbD_eq
  intro i hi
  simp [entryLen, getLsbD_packEntry, hi]

@[simp] theorem entryValue_packEntry (len : Len) (value : Value) : entryValue (packEntry len value) = value := by
  apply BitVec.eq_of_getLsbD_eq
  intro i hi
  simp [entryValue, getLsbD_packEntry, hi]

/-- An entry is its two fields (30_encoding.md R62). -/
theorem packEntry_fields (e : Entry) : packEntry (entryLen e) (entryValue e) = e := by
  apply BitVec.eq_of_getLsbD_eq
  intro i hi
  rw [getLsbD_packEntry]
  split
  · simp_all [entryValue]
  · have h6 : i - 32 < 6 := by omega
    have h32 : 32 + (i - 32) = i := by omega
    simp [entryLen, h6, h32]

/-- The number an entry is: `len * 2^32 + value` (30_encoding.md R69). -/
theorem packEntry_toNat (len : Len) (value : Value) :
    (packEntry len value).toNat = len.toNat * 2 ^ 32 + value.toNat := by
  simp only [packEntry, BitVec.toNat_append]
  rw [Nat.shiftLeft_eq, Nat.mul_comm, ← Nat.two_pow_add_eq_or_of_lt value.isLt, Nat.mul_comm]

@[simp] theorem packVector_rst (a b c d : Bool) : (packVector a b c d).getLsbD 3 = a := by
  cases a <;> cases b <;> cases c <;> cases d <;> decide

@[simp] theorem packVector_start (a b c d : Bool) : (packVector a b c d).getLsbD 2 = b := by
  cases a <;> cases b <;> cases c <;> cases d <;> decide

@[simp] theorem packVector_push (a b c d : Bool) : (packVector a b c d).getLsbD 1 = c := by
  cases a <;> cases b <;> cases c <;> cases d <;> decide

@[simp] theorem packVector_tick (a b c d : Bool) : (packVector a b c d).getLsbD 0 = d := by
  cases a <;> cases b <;> cases c <;> cases d <;> decide

/-- A row selected for an event belongs to that event's operation (30_encoding.md R66). -/
@[simp] theorem Event.row_event (cls : StateClass) (full : Bool) (e : Event) : (e.row cls full).event = e := by
  cases e with
  | reset => rfl
  | start => rfl
  | tick => cases cls <;> rfl
  | push len value =>
    simp only [Event.row]
    split
    · rfl
    · split
      · rfl
      · split
        · rename_i h
          have : len = 32#6 := BitVec.eq_of_toNat_eq (by simpa using h)
          simp [Instr.event, this]
        · rfl

/-- Every row the decoder selects is well formed. -/
theorem Event.row_wellFormed (cls : StateClass) (full : Bool) (e : Event) :
    (e.row cls full).wellFormed = true := by
  cases e with
  | reset => rfl
  | start => rfl
  | tick => cases cls <;> rfl
  | push len value =>
    simp only [Event.row]
    split
    · simp only [Instr.wellFormed, decide_eq_true_eq]; omega
    · split
      · rfl
      · split
        · rfl
        · simp only [Instr.wellFormed, decide_eq_true_eq]; omega

end Sys2Proof
end

