-- ==== Sys2Proof/Laws/Memory.lean ====
section
/-! SUPPORT. The laws of the queue store: reading after a write, and the canonical form every write keeps. -/

namespace Sys2Proof.Machine

theorem Memory.read_write_same (m : Memory) (i : Nat) (e : Entry) :
    Memory.read (Memory.write m i e) i = some e := by
  induction m with
  | nil => simp [Memory.write, Memory.read]
  | cons c m ih =>
    obtain ⟨j, f⟩ := c
    unfold Memory.write
    split
    · simp [Memory.read]
    · split
      · simp [Memory.read]
      · simp [Memory.read, *]

theorem Memory.read_write_other (m : Memory) {i j : Nat} (e : Entry) (h : j ≠ i) :
    Memory.read (Memory.write m i e) j = Memory.read m j := by
  induction m with
  | nil => simp [Memory.write, Memory.read, h]
  | cons c m ih =>
    obtain ⟨k, f⟩ := c
    unfold Memory.write
    split
    · simp [Memory.read, h]
    · split
      · subst_vars; simp [Memory.read, h]
      · simp [Memory.read, ih]

/-- Reading any index after a write. -/
theorem Memory.read_write (m : Memory) (i j : Nat) (e : Entry) :
    Memory.read (Memory.write m i e) j = if j = i then some e else Memory.read m j := by
  split
  · subst_vars; exact Memory.read_write_same m _ e
  · exact Memory.read_write_other m e ‹_›

theorem Memory.mem_write {m : Memory} {i : Nat} {e : Entry} {c : Nat × Entry} (h : c ∈ Memory.write m i e) :
    c = (i, e) ∨ c ∈ m := by
  induction m with
  | nil => simpa [Memory.write] using h
  | cons d m ih =>
    obtain ⟨j, f⟩ := d
    unfold Memory.write at h
    split at h
    · simpa using h
    · split at h
      · rcases List.mem_cons.1 h with h | h
        · exact .inl h
        · exact .inr (List.mem_cons_of_mem _ h)
      · rcases List.mem_cons.1 h with h | h
        · exact .inr (h ▸ List.mem_cons_self)
        · exact (ih h).imp_right (List.mem_cons_of_mem _)

/-- The canonical form, as an order on the indices. -/
theorem Memory.wf_iff (m : Memory) : Memory.wf m = true ↔ (m.map Prod.fst).Pairwise (· < ·) := by
  induction m with
  | nil => simp [Memory.wf]
  | cons c m ih =>
    obtain ⟨i, e⟩ := c
    cases m with
    | nil => simp [Memory.wf]
    | cons d m =>
      obtain ⟨j, f⟩ := d
      simp only [Memory.wf, Bool.and_eq_true, decide_eq_true_eq, ih, List.map_cons, List.pairwise_cons,
        List.mem_cons]
      constructor
      · rintro ⟨h, hj, hp⟩
        exact ⟨by rintro k (rfl | hk) <;> [exact h; exact h.trans (hj k hk)], hj, hp⟩
      · rintro ⟨h, hj, hp⟩
        exact ⟨h j (.inl rfl), hj, hp⟩

/-- Every write keeps the canonical form. -/
theorem Memory.write_wf (m : Memory) (i : Nat) (e : Entry) (h : Memory.wf m = true) :
    Memory.wf (Memory.write m i e) = true := by
  rw [Memory.wf_iff] at h ⊢
  induction m with
  | nil => simp [Memory.write]
  | cons c m ih =>
    obtain ⟨j, f⟩ := c
    simp only [List.map_cons, List.pairwise_cons] at h
    unfold Memory.write
    split
    · rename_i hij
      simp only [List.map_cons, List.pairwise_cons, List.mem_cons]
      exact ⟨by rintro k (rfl | hk) <;> [exact hij; exact hij.trans (h.1 k hk)], h⟩
    · split
      · subst_vars; simpa using h
      · simp only [List.map_cons, List.pairwise_cons, List.mem_map]
        refine ⟨?_, ih h.2⟩
        rintro k ⟨d, hd, rfl⟩
        rcases Memory.mem_write hd with rfl | hd
        · omega
        · exact h.1 _ (List.mem_map_of_mem hd)

/-- A store in canonical form lists an index at most once: reading it answers its entry. -/
theorem Memory.read_of_mem {m : Memory} {i : Nat} {e : Entry} (h : Memory.wf m = true) (hm : (i, e) ∈ m) :
    Memory.read m i = some e := by
  rw [Memory.wf_iff] at h
  induction m with
  | nil => simp at hm
  | cons c m ih =>
    obtain ⟨j, f⟩ := c
    simp only [List.map_cons, List.pairwise_cons, List.mem_map] at h
    rcases List.mem_cons.1 hm with hm | hm
    · cases hm; simp [Memory.read]
    · have : j < i := h.1 i ⟨_, hm, rfl⟩
      simp [Memory.read, Nat.ne_of_gt this, ih h.2 hm]

end Sys2Proof.Machine
end

