-- ==== Sys2Proof/Laws/State.lean ====
section
/-! SUPPORT. What each named update of the state leaves in each field. -/

namespace Sys2Proof.Machine

variable (s : State) (b : Bool) (e : Entry) (c : Config) (i : List PortSample)

@[simp] theorem State.toggleClk_cfg : (s.toggleClk).cfg = s.cfg := rfl
@[simp] theorem State.toggleClk_clk : (s.toggleClk).clk = !s.clk := rfl
@[simp] theorem State.toggleClk_pwValue : (s.toggleClk).pwValue = s.pwValue := rfl
@[simp] theorem State.toggleClk_pwPos : (s.toggleClk).pwPos = s.pwPos := rfl
@[simp] theorem State.toggleClk_pwLen : (s.toggleClk).pwLen = s.pwLen := rfl
@[simp] theorem State.toggleClk_qCount : (s.toggleClk).qCount = s.qCount := rfl
@[simp] theorem State.toggleClk_qRd : (s.toggleClk).qRd = s.qRd := rfl
@[simp] theorem State.toggleClk_qMem : (s.toggleClk).qMem = s.qMem := rfl
@[simp] theorem State.toggleClk_dat : (s.toggleClk).dat = s.dat := rfl
@[simp] theorem State.toggleClk_run : (s.toggleClk).run = s.run := rfl
@[simp] theorem State.toggleClk_div : (s.toggleClk).div = s.div := rfl
@[simp] theorem State.toggleClk_pinLog : (s.toggleClk).pinLog = s.pinLog ++ [.clk (!s.clk)] := rfl
@[simp] theorem State.toggleClk_inputs : (s.toggleClk).inputs = s.inputs := rfl

@[simp] theorem State.driveDat_cfg : (s.driveDat b).cfg = s.cfg := rfl
@[simp] theorem State.driveDat_clk : (s.driveDat b).clk = s.clk := rfl
@[simp] theorem State.driveDat_pwValue : (s.driveDat b).pwValue = s.pwValue := rfl
@[simp] theorem State.driveDat_pwPos : (s.driveDat b).pwPos = s.pwPos := rfl
@[simp] theorem State.driveDat_pwLen : (s.driveDat b).pwLen = s.pwLen := rfl
@[simp] theorem State.driveDat_qCount : (s.driveDat b).qCount = s.qCount := rfl
@[simp] theorem State.driveDat_qRd : (s.driveDat b).qRd = s.qRd := rfl
@[simp] theorem State.driveDat_qMem : (s.driveDat b).qMem = s.qMem := rfl
@[simp] theorem State.driveDat_dat : (s.driveDat b).dat = b := rfl
@[simp] theorem State.driveDat_run : (s.driveDat b).run = s.run := rfl
@[simp] theorem State.driveDat_div : (s.driveDat b).div = s.div := rfl
@[simp] theorem State.driveDat_pinLog : (s.driveDat b).pinLog = s.pinLog ++ [.dat b] := rfl
@[simp] theorem State.driveDat_inputs : (s.driveDat b).inputs = s.inputs := rfl

@[simp] theorem State.advancePos_cfg : (s.advancePos).cfg = s.cfg := rfl
@[simp] theorem State.advancePos_clk : (s.advancePos).clk = s.clk := rfl
@[simp] theorem State.advancePos_pwValue : (s.advancePos).pwValue = s.pwValue := rfl
@[simp] theorem State.advancePos_pwPos : (s.advancePos).pwPos = s.pwPos + 1 := rfl
@[simp] theorem State.advancePos_pwLen : (s.advancePos).pwLen = s.pwLen := rfl
@[simp] theorem State.advancePos_qCount : (s.advancePos).qCount = s.qCount := rfl
@[simp] theorem State.advancePos_qRd : (s.advancePos).qRd = s.qRd := rfl
@[simp] theorem State.advancePos_qMem : (s.advancePos).qMem = s.qMem := rfl
@[simp] theorem State.advancePos_dat : (s.advancePos).dat = s.dat := rfl
@[simp] theorem State.advancePos_run : (s.advancePos).run = s.run := rfl
@[simp] theorem State.advancePos_div : (s.advancePos).div = s.div := rfl
@[simp] theorem State.advancePos_pinLog : (s.advancePos).pinLog = s.pinLog := rfl
@[simp] theorem State.advancePos_inputs : (s.advancePos).inputs = s.inputs := rfl

@[simp] theorem State.loadPendingWord_cfg : (s.loadPendingWord e).cfg = s.cfg := rfl
@[simp] theorem State.loadPendingWord_clk : (s.loadPendingWord e).clk = s.clk := rfl
@[simp] theorem State.loadPendingWord_pwValue : (s.loadPendingWord e).pwValue = entryValue e := rfl
@[simp] theorem State.loadPendingWord_pwPos : (s.loadPendingWord e).pwPos = 0 := rfl
@[simp] theorem State.loadPendingWord_pwLen : (s.loadPendingWord e).pwLen = entryLen e := rfl
@[simp] theorem State.loadPendingWord_qCount : (s.loadPendingWord e).qCount = s.qCount := rfl
@[simp] theorem State.loadPendingWord_qRd : (s.loadPendingWord e).qRd = s.qRd := rfl
@[simp] theorem State.loadPendingWord_qMem : (s.loadPendingWord e).qMem = s.qMem := rfl
@[simp] theorem State.loadPendingWord_dat : (s.loadPendingWord e).dat = s.dat := rfl
@[simp] theorem State.loadPendingWord_run : (s.loadPendingWord e).run = s.run := rfl
@[simp] theorem State.loadPendingWord_div : (s.loadPendingWord e).div = s.div := rfl
@[simp] theorem State.loadPendingWord_pinLog : (s.loadPendingWord e).pinLog = s.pinLog := rfl
@[simp] theorem State.loadPendingWord_inputs : (s.loadPendingWord e).inputs = s.inputs := rfl

@[simp] theorem State.popQueue_cfg : (s.popQueue).cfg = s.cfg := rfl
@[simp] theorem State.popQueue_clk : (s.popQueue).clk = s.clk := rfl
@[simp] theorem State.popQueue_pwValue : (s.popQueue).pwValue = s.pwValue := rfl
@[simp] theorem State.popQueue_pwPos : (s.popQueue).pwPos = s.pwPos := rfl
@[simp] theorem State.popQueue_pwLen : (s.popQueue).pwLen = s.pwLen := rfl
@[simp] theorem State.popQueue_qCount : (s.popQueue).qCount = s.qCount - 1 := rfl
@[simp] theorem State.popQueue_qRd : (s.popQueue).qRd = (s.qRd + 1) % s.cfg.qdepth := rfl
@[simp] theorem State.popQueue_qMem : (s.popQueue).qMem = s.qMem := rfl
@[simp] theorem State.popQueue_dat : (s.popQueue).dat = s.dat := rfl
@[simp] theorem State.popQueue_run : (s.popQueue).run = s.run := rfl
@[simp] theorem State.popQueue_div : (s.popQueue).div = s.div := rfl
@[simp] theorem State.popQueue_pinLog : (s.popQueue).pinLog = s.pinLog := rfl
@[simp] theorem State.popQueue_inputs : (s.popQueue).inputs = s.inputs := rfl

@[simp] theorem State.storeEntry_cfg : (s.storeEntry e).cfg = s.cfg := rfl
@[simp] theorem State.storeEntry_clk : (s.storeEntry e).clk = s.clk := rfl
@[simp] theorem State.storeEntry_pwValue : (s.storeEntry e).pwValue = s.pwValue := rfl
@[simp] theorem State.storeEntry_pwPos : (s.storeEntry e).pwPos = s.pwPos := rfl
@[simp] theorem State.storeEntry_pwLen : (s.storeEntry e).pwLen = s.pwLen := rfl
@[simp] theorem State.storeEntry_qCount : (s.storeEntry e).qCount = s.qCount + 1 := rfl
@[simp] theorem State.storeEntry_qRd : (s.storeEntry e).qRd = s.qRd := rfl
@[simp] theorem State.storeEntry_qMem : (s.storeEntry e).qMem = Memory.write s.qMem s.writeIndex e := rfl
@[simp] theorem State.storeEntry_dat : (s.storeEntry e).dat = s.dat := rfl
@[simp] theorem State.storeEntry_run : (s.storeEntry e).run = s.run := rfl
@[simp] theorem State.storeEntry_div : (s.storeEntry e).div = s.div := rfl
@[simp] theorem State.storeEntry_pinLog : (s.storeEntry e).pinLog = s.pinLog := rfl
@[simp] theorem State.storeEntry_inputs : (s.storeEntry e).inputs = s.inputs := rfl

@[simp] theorem State.startRun_cfg : (s.startRun).cfg = s.cfg := rfl
@[simp] theorem State.startRun_clk : (s.startRun).clk = s.clk := rfl
@[simp] theorem State.startRun_pwValue : (s.startRun).pwValue = s.pwValue := rfl
@[simp] theorem State.startRun_pwPos : (s.startRun).pwPos = s.pwPos := rfl
@[simp] theorem State.startRun_pwLen : (s.startRun).pwLen = s.pwLen := rfl
@[simp] theorem State.startRun_qCount : (s.startRun).qCount = s.qCount := rfl
@[simp] theorem State.startRun_qRd : (s.startRun).qRd = s.qRd := rfl
@[simp] theorem State.startRun_qMem : (s.startRun).qMem = s.qMem := rfl
@[simp] theorem State.startRun_dat : (s.startRun).dat = s.dat := rfl
@[simp] theorem State.startRun_run : (s.startRun).run = true := rfl
@[simp] theorem State.startRun_div : (s.startRun).div = tickDiv s.cfg - 1 := rfl
@[simp] theorem State.startRun_pinLog : (s.startRun).pinLog = s.pinLog := rfl
@[simp] theorem State.startRun_inputs : (s.startRun).inputs = s.inputs := rfl

@[simp] theorem State.countDiv_cfg : (s.countDiv).cfg = s.cfg := rfl
@[simp] theorem State.countDiv_clk : (s.countDiv).clk = s.clk := rfl
@[simp] theorem State.countDiv_pwValue : (s.countDiv).pwValue = s.pwValue := rfl
@[simp] theorem State.countDiv_pwPos : (s.countDiv).pwPos = s.pwPos := rfl
@[simp] theorem State.countDiv_pwLen : (s.countDiv).pwLen = s.pwLen := rfl
@[simp] theorem State.countDiv_qCount : (s.countDiv).qCount = s.qCount := rfl
@[simp] theorem State.countDiv_qRd : (s.countDiv).qRd = s.qRd := rfl
@[simp] theorem State.countDiv_qMem : (s.countDiv).qMem = s.qMem := rfl
@[simp] theorem State.countDiv_dat : (s.countDiv).dat = s.dat := rfl
@[simp] theorem State.countDiv_run : (s.countDiv).run = s.run := rfl
@[simp] theorem State.countDiv_div : (s.countDiv).div = if s.run then (if s.div = 0 then tickDiv s.cfg - 1 else s.div - 1) else s.div := rfl
@[simp] theorem State.countDiv_pinLog : (s.countDiv).pinLog = s.pinLog := rfl
@[simp] theorem State.countDiv_inputs : (s.countDiv).inputs = s.inputs := rfl

@[simp] theorem State.dropSample_cfg : (s.dropSample).cfg = s.cfg := rfl
@[simp] theorem State.dropSample_clk : (s.dropSample).clk = s.clk := rfl
@[simp] theorem State.dropSample_pwValue : (s.dropSample).pwValue = s.pwValue := rfl
@[simp] theorem State.dropSample_pwPos : (s.dropSample).pwPos = s.pwPos := rfl
@[simp] theorem State.dropSample_pwLen : (s.dropSample).pwLen = s.pwLen := rfl
@[simp] theorem State.dropSample_qCount : (s.dropSample).qCount = s.qCount := rfl
@[simp] theorem State.dropSample_qRd : (s.dropSample).qRd = s.qRd := rfl
@[simp] theorem State.dropSample_qMem : (s.dropSample).qMem = s.qMem := rfl
@[simp] theorem State.dropSample_dat : (s.dropSample).dat = s.dat := rfl
@[simp] theorem State.dropSample_run : (s.dropSample).run = s.run := rfl
@[simp] theorem State.dropSample_div : (s.dropSample).div = s.div := rfl
@[simp] theorem State.dropSample_pinLog : (s.dropSample).pinLog = s.pinLog := rfl
@[simp] theorem State.dropSample_inputs : (s.dropSample).inputs = s.inputs.tail := rfl

@[simp] theorem State.resetWith_cfg : (State.resetWith c i).cfg = c := rfl
@[simp] theorem State.resetWith_clk : (State.resetWith c i).clk = false := rfl
@[simp] theorem State.resetWith_pwValue : (State.resetWith c i).pwValue = 0 := rfl
@[simp] theorem State.resetWith_pwPos : (State.resetWith c i).pwPos = 0 := rfl
@[simp] theorem State.resetWith_pwLen : (State.resetWith c i).pwLen = 0 := rfl
@[simp] theorem State.resetWith_qCount : (State.resetWith c i).qCount = 0 := rfl
@[simp] theorem State.resetWith_qRd : (State.resetWith c i).qRd = 0 := rfl
@[simp] theorem State.resetWith_qMem : (State.resetWith c i).qMem = [] := rfl
@[simp] theorem State.resetWith_dat : (State.resetWith c i).dat = c.datReset := rfl
@[simp] theorem State.resetWith_run : (State.resetWith c i).run = false := rfl
@[simp] theorem State.resetWith_div : (State.resetWith c i).div = tickDiv c - 1 := rfl
@[simp] theorem State.resetWith_pinLog : (State.resetWith c i).pinLog = [] := rfl
@[simp] theorem State.resetWith_inputs : (State.resetWith c i).inputs = i := rfl

end Sys2Proof.Machine
end

