-- ==== Sys2Proof/Laws/Ops.lean ====
section
/-! SUPPORT. For each shared operation, one lemma that says everything it can do. -/

namespace Sys2Proof.Machine

/-- `TICK_DIV` is at least 5 (60_exceptions.md R125). -/
theorem five_le_tickDiv (c : Config) : 5 ≤ tickDiv c := by
  have h5 : 5 ≤ 1000000 / c.rate := by
    have := c.rate_pos
    rw [Nat.le_div_iff_mul_le (by omega)]
    have := c.rate_le
    omega
  calc 5 = 5 * 1 := rfl
    _ ≤ tickPeriodUs c * c.fSysMhz := Nat.mul_le_mul h5 c.fSysMhz_pos

/-- The class is ACTIVE exactly when the position is below the length. -/
theorem State.cls_active {s : State} : s.cls = .active ↔ s.pwPos.toNat < s.pwLen.toNat := by
  rw [← BitVec.lt_def]; unfold State.cls; split
  · simp_all
  · split <;> simp_all

theorem State.cls_loadPending {s : State} :
    s.cls = .loadPending ↔ ¬ s.pwPos.toNat < s.pwLen.toNat ∧ 0 < s.qCount := by
  rw [← BitVec.lt_def]; unfold State.cls; split
  · simp_all
  · split <;> simp_all

theorem State.cls_idle {s : State} :
    s.cls = .idle ↔ ¬ s.pwPos.toNat < s.pwLen.toNat ∧ s.qCount = 0 := by
  rw [← BitVec.lt_def]; unfold State.cls; split
  · simp_all
  · split <;> simp_all; omega

theorem State.pushReady_iff {s : State} : s.pushReady = true ↔ s.qCount < s.cfg.qdepth := decide_eq_true_iff

theorem State.pushReady_eq_false {s : State} : s.pushReady = false ↔ s.cfg.qdepth ≤ s.qCount := by
  rw [← Bool.not_eq_true, State.pushReady_iff, Nat.not_lt]

theorem State.active_iff {s : State} : s.active = true ↔ s.pwPos.toNat < s.pwLen.toNat := decide_eq_true_iff

theorem State.active_eq_false {s : State} : s.active = false ↔ s.pwLen.toNat ≤ s.pwPos.toNat := by
  rw [← Bool.not_eq_true, State.active_iff, Nat.not_lt]

theorem State.exhausted_iff {s : State} : s.exhausted = true ↔ s.pwPos = s.pwLen := beq_iff_eq

theorem State.idle_iff {s : State} : s.idle = true ↔ s.pwPos = s.pwLen ∧ s.qCount = 0 := by
  rw [State.idle, Bool.and_eq_true, State.exhausted_iff, beq_iff_eq]

theorem State.loadPending_iff {s : State} : s.loadPending = true ↔ s.pwPos = s.pwLen ∧ 0 < s.qCount := by
  rw [State.loadPending, Bool.and_eq_true, State.exhausted_iff, decide_eq_true_iff]

/-- Everything a TICK.LOAD's arm can do. -/
theorem loadArm_next {s t : State} (h : loadArm s = .next t) :
    ∃ e, Memory.read s.qMem s.qRd = some e ∧ t = (s.loadPendingWord e).popQueue := by
  unfold loadArm at h
  split at h
  · rename_i e he
    exact ⟨e, he, by cases h; rfl⟩
  · cases h

/-- Everything a TICK can do, if it answers a next state (40_tick.md R80). -/
theorem tick_next {s t : State} (h : tick s = .next t) :
    s.run = true ∧
      ((s.cls = .active ∧ t = emitArm s.toggleClk) ∨
       (s.cls = .loadPending ∧ ∃ e, Memory.read s.qMem s.qRd = some e ∧ t = (s.toggleClk.loadPendingWord e).popQueue) ∨
       (s.cls = .idle ∧ t = s.toggleClk)) := by
  unfold tick at h
  split at h
  · rename_i hr
    refine ⟨hr, ?_⟩
    split at h
    · rename_i hc; exact .inl ⟨hc, by cases h; rfl⟩
    · rename_i hc; exact .inr (.inl ⟨hc, by simpa using loadArm_next h⟩)
    · rename_i hc; exact .inr (.inr ⟨hc, by cases h; rfl⟩)
  · cases h

theorem tick_active {s : State} (hr : s.run = true) (hc : s.cls = .active) :
    tick s = .next (emitArm s.toggleClk) := by
  simp [tick, hr, hc]

theorem tick_load {s : State} {e : Entry} (hr : s.run = true) (hc : s.cls = .loadPending) (he : Memory.read s.qMem s.qRd = some e) :
    tick s = .next (s.toggleClk.loadPendingWord e).popQueue := by
  simp [tick, hr, hc, loadArm, he]

theorem tick_idle {s : State} (hr : s.run = true) (hc : s.cls = .idle) : tick s = .next s.toggleClk := by
  simp [tick, hr, hc]

/-- A TICK is refused exactly while `RUN` = 0 (40_tick.md R80). -/
theorem tick_refused {s : State} {r : Refusal} :
    tick s = .refused r ↔ s.run = false ∧ r = .tickNotEnabled := by
  unfold tick
  split
  · rename_i hr
    simp only [hr, Bool.true_eq_false, false_and, iff_false]
    split
    · nofun
    · unfold loadArm; split <;> nofun
    · nofun
  · rename_i hr
    rw [Bool.not_eq_true] at hr
    simp only [hr, true_and, Host.Outcome.refused.injEq]
    exact eq_comm

/-- Everything a PUSH can do (41_queue_push.md R100 to R102). -/
theorem push_cases (len : Len) (value : Value) (s : State) :
    (s.qCount < s.cfg.qdepth ∧ len.toNat ≤ 32 ∧ push len value s = s.storeEntry (packEntry len value)) ∨
      ((s.cfg.qdepth ≤ s.qCount ∨ 32 < len.toNat) ∧ push len value s = s) := by
  by_cases hq : s.qCount < s.cfg.qdepth <;> by_cases hl : len.toNat ≤ 32
  · exact .inl ⟨hq, hl, by simp [push, State.pushReady, lenLegal, hq, hl]⟩
  · exact .inr ⟨.inr (by omega), by simp [push, lenLegal, hl]⟩
  · exact .inr ⟨.inl (by omega), by simp [push, State.pushReady, hq]⟩
  · exact .inr ⟨.inl (by omega), by simp [push, State.pushReady, hq]⟩

/-- Everything a START can do (42_control.md R110). -/
theorem start_cases (s : State) : (s.run = false ∧ start s = s.startRun) ∨ (s.run = true ∧ start s = s) := by
  cases h : s.run
  · exact .inl ⟨rfl, by simp [start, h]⟩
  · exact .inr ⟨rfl, by simp [start, h]⟩

/-- A row means the operation it belongs to, on the state it meets. -/
theorem exec_event (i : Instr) (s : State) :
    exec i s = match i.event with
      | .reset => .next (reset s)
      | .start => .next (start s)
      | .tick => tick s
      | .push len value => .next (push len value s) := by
  cases i <;> rfl

@[simp] theorem doEvent_reset (s : State) : doEvent .reset s = .next (reset s) := rfl

@[simp] theorem doEvent_start (s : State) : doEvent .start s = .next (start s) := rfl

@[simp] theorem doEvent_tick (s : State) : doEvent .tick s = tick s := by
  simp [doEvent, State.rowOf, exec_event]

@[simp] theorem doEvent_push (len : Len) (value : Value) (s : State) :
    doEvent (.push len value) s = .next (push len value s) := by
  simp [doEvent, State.rowOf, exec_event]

@[simp] theorem runEvents_nil (s : State) : runEvents [] s = .next s := rfl

theorem runEvents_cons_next {e : Event} {s t : State} (es : List Event) (h : doEvent e s = .next t) :
    runEvents (e :: es) s = runEvents es t := by
  simp [runEvents, h]

/-- A run completes through the next state of its first event. -/
theorem runEvents_cons_iff {e : Event} {es : List Event} {s u : State} :
    runEvents (e :: es) s = .next u ↔ ∃ t, doEvent e s = .next t ∧ runEvents es t = .next u := by
  rw [runEvents]
  cases doEvent e s <;> simp

/-- Runs compose (20_memory.md R46). -/
theorem runEvents_append {es fs : List Event} {s t : State} (h : runEvents es s = .next t) :
    runEvents (es ++ fs) s = runEvents fs t := by
  induction es generalizing s with
  | nil => cases h; rfl
  | cons e es ih =>
    obtain ⟨u, hu, h⟩ := runEvents_cons_iff.1 h
    rw [List.cons_append, runEvents_cons_next _ hu, ih h]

/-- A cycle is its events, in order, on the advanced state (60_exceptions.md R123). -/
theorem step_eq (s : State) : step s = runEvents s.cycleEvents s.advance := rfl

/-- The events of a cycle by its ports and strobe (30_encoding.md R66). -/
theorem State.cycleEvents_eq (s : State) :
    s.cycleEvents =
      if s.ports.rst then [.reset]
      else (if s.ports.start then [.start] else []) ++ (if s.strobe then [.tick] else []) ++
        (if s.ports.pushValid then [.push s.ports.pushLen s.ports.pushValue] else []) := by
  simp only [State.cycleEvents, decodeCycle, State.eventVector, State.portEntry, packVector_rst, packVector_start,
    packVector_push, packVector_tick, entryLen_packEntry, entryValue_packEntry]

end Sys2Proof.Machine
end

