-- ==== Sys2Proof/Laws/Observe.lean ====
section
/-! SUPPORT. The small laws of the observations: what each reads off a trace, and what each operation does to the queue's
content and to the ticks still to come. -/

namespace Sys2Proof.Machine

@[simp] theorem datLevels_nil : datLevels [] = [] := rfl

@[simp] theorem clkLevels_nil : clkLevels [] = [] := rfl

@[simp] theorem datLevels_dat (b : Bool) (l : List PinEvent) : datLevels (.dat b :: l) = b :: datLevels l := rfl

@[simp] theorem datLevels_clk (b : Bool) (l : List PinEvent) : datLevels (.clk b :: l) = datLevels l := rfl

@[simp] theorem clkLevels_clk (b : Bool) (l : List PinEvent) : clkLevels (.clk b :: l) = b :: clkLevels l := rfl

@[simp] theorem clkLevels_dat (b : Bool) (l : List PinEvent) : clkLevels (.dat b :: l) = clkLevels l := rfl

@[simp] theorem datLevels_append (l m : List PinEvent) : datLevels (l ++ m) = datLevels l ++ datLevels m :=
  List.filterMap_append

@[simp] theorem clkLevels_append (l m : List PinEvent) : clkLevels (l ++ m) = clkLevels l ++ clkLevels m :=
  List.filterMap_append

/-- The bit of a value by its number (00_scope.md R6). -/
theorem valueBit_eq (v : Value) (i : Nat) : valueBit v i = decide (v.toNat / 2 ^ i % 2 = 1) := by
  simp [valueBit, BitVec.getLsbD, Nat.testBit_eq_decide_div_mod_eq]

/-- A position below a length does not wrap when it advances (40_tick.md R91). -/
theorem pos_succ {p l : Len} (h : p.toNat < l.toNat) : (p + 1).toNat = p.toNat + 1 := by
  have := l.isLt
  rw [BitVec.toNat_add]
  rw [show (1 : Len).toNat = 1 from rfl]
  omega

/-- Two offsets within the ring name two indices. -/
theorem ring_ne {r k n q : Nat} (hk : k < n) (hn : n < q) : (r + k) % q ≠ (r + n) % q := by
  intro h
  have : k % q = n % q := Nat.ModEq.add_left_cancel' r h
  rw [Nat.mod_eq_of_lt (by omega), Nat.mod_eq_of_lt hn] at this
  omega

theorem slot_zero {s : State} (h : s.qRd < s.cfg.qdepth) : s.slot 0 = Memory.read s.qMem s.qRd := by
  simp [State.slot, State.slotIndex, Nat.mod_eq_of_lt h]

/-- A push leaves every waiting entry (41_queue_push.md R100 a). -/
theorem slot_storeEntry {s : State} {e : Entry} {k : Nat} (h : s.qCount < s.cfg.qdepth) (hk : k < s.qCount) :
    (s.storeEntry e).slot k = s.slot k :=
  Memory.read_write_other _ _ (ring_ne hk h)

theorem slot_storeEntry_new {s : State} {e : Entry} : (s.storeEntry e).slot s.qCount = some e :=
  Memory.read_write_same _ _ _

/-- A pop moves every waiting entry one place to the front. -/
theorem slot_popQueue {s : State} (k : Nat) : s.popQueue.slot k = s.slot (k + 1) := by
  simp only [State.slot, State.slotIndex, State.popQueue_qMem, State.popQueue_qRd, State.popQueue_cfg,
    Nat.mod_add_mod]
  congr 2
  omega

/-- A push appends at the tail (10_state.md R19). -/
theorem queue_storeEntry {s : State} {e : Entry} (h : s.qCount < s.cfg.qdepth) :
    (s.storeEntry e).queue = s.queue ++ [e] := by
  simp only [State.queue, State.storeEntry_qCount, List.range_succ, List.filterMap_append]
  congr 1
  · exact List.filterMap_congr fun k hk => slot_storeEntry h (List.mem_range.1 hk)
  · simp [slot_storeEntry_new]

/-- A pop removes the head (10_state.md R19). -/
theorem queue_popQueue {s : State} {e : Entry} (h : 0 < s.qCount) (h0 : s.slot 0 = some e) :
    s.queue = e :: s.popQueue.queue := by
  obtain ⟨n, hn⟩ : ∃ n, s.qCount = n + 1 := ⟨s.qCount - 1, by omega⟩
  simp only [State.queue, State.popQueue_qCount, hn, List.range_succ_eq_map, List.filterMap_cons, h0,
    List.filterMap_map, Nat.add_sub_cancel]
  congr 1
  exact List.filterMap_congr fun k _ => by simp [slot_popQueue]

/-- The ticks of a word, one bit at a time. -/
theorem wordTicks_cons {v : Value} {p l : Nat} (h : p < l) :
    wordTicks v p l = some (valueBit v p) :: wordTicks v (p + 1) l := by
  obtain ⟨n, hn⟩ : ∃ n, l - p = n + 1 := ⟨l - p - 1, by omega⟩
  have hn' : l - (p + 1) = n := by omega
  simp only [wordTicks, hn, hn', List.range_succ_eq_map, List.map_cons, List.map_map]
  refine congr (congrArg _ (by simp)) (List.map_congr_left fun k _ => ?_)
  simp [Nat.add_assoc, Nat.add_comm 1 k]

theorem wordTicks_nil {v : Value} {p l : Nat} (h : l ≤ p) : wordTicks v p l = [] := by
  simp [wordTicks, Nat.sub_eq_zero_of_le h]

end Sys2Proof.Machine
end

