-- ==== Sys2Proof/Laws/PerInstr.lean ====
section
/-! SUPPORT. Statements made row by row. The family `EncodingMatchesRow`: the word the encoder writes for a row carries
the row's `mask` and `match` of spec/opcode_table.json, and presents exactly one event. -/

namespace Sys2Proof

/-- The column `mask` of spec/opcode_table.json. -/
def Laws.rowMask : Instr → EventVector
  | .reset => 0x8#4
  | .start => 0xC#4
  | .tickEmit => 0x9#4
  | .tickLoad => 0x9#4
  | .tickIdle => 0x9#4
  | .push _ _ => 0xA#4
  | .push32 _ => 0xA#4
  | .pushFull _ _ => 0xA#4
  | .pushRsvd _ _ => 0xA#4

/-- The column `match` of spec/opcode_table.json. -/
def Laws.rowMatch : Instr → EventVector
  | .reset => 0x8#4
  | .start => 0x4#4
  | .tickEmit => 0x1#4
  | .tickLoad => 0x1#4
  | .tickIdle => 0x1#4
  | .push _ _ => 0x2#4
  | .push32 _ => 0x2#4
  | .pushFull _ _ => 0x2#4
  | .pushRsvd _ _ => 0x2#4

/-- The encoded vector matches the row, and the cycle that presents it has the row's event and no other. -/
def Laws.EncodingMatchesRow.Statement (i : Instr) : Prop :=
  i.event.vector &&& Laws.rowMask i = Laws.rowMatch i ∧
    decodeCycle i.event.vector i.event.entry = [i.event]

/-- The one reason: an event presented alone decodes to itself. -/
theorem decodeCycle_event (e : Event) : decodeCycle e.vector e.entry = [e] := by
  cases e <;> simp [decodeCycle, Event.vector, Event.entry]

theorem Laws.EncodingMatchesRow.reset : Laws.EncodingMatchesRow.Statement .reset :=
  ⟨by decide, decodeCycle_event _⟩

theorem Laws.EncodingMatchesRow.start : Laws.EncodingMatchesRow.Statement .start :=
  ⟨by decide, decodeCycle_event _⟩

theorem Laws.EncodingMatchesRow.tickEmit : Laws.EncodingMatchesRow.Statement .tickEmit :=
  ⟨by decide, decodeCycle_event _⟩

theorem Laws.EncodingMatchesRow.tickLoad : Laws.EncodingMatchesRow.Statement .tickLoad :=
  ⟨by decide, decodeCycle_event _⟩

theorem Laws.EncodingMatchesRow.tickIdle : Laws.EncodingMatchesRow.Statement .tickIdle :=
  ⟨by decide, decodeCycle_event _⟩

theorem Laws.EncodingMatchesRow.push (len : Len) (value : Value) :
    Laws.EncodingMatchesRow.Statement (.push len value) :=
  ⟨(by decide : (0x2#4 &&& 0xA#4 : EventVector) = 0x2#4), decodeCycle_event _⟩

theorem Laws.EncodingMatchesRow.push32 (value : Value) : Laws.EncodingMatchesRow.Statement (.push32 value) :=
  ⟨(by decide : (0x2#4 &&& 0xA#4 : EventVector) = 0x2#4), decodeCycle_event _⟩

theorem Laws.EncodingMatchesRow.pushFull (len : Len) (value : Value) :
    Laws.EncodingMatchesRow.Statement (.pushFull len value) :=
  ⟨(by decide : (0x2#4 &&& 0xA#4 : EventVector) = 0x2#4), decodeCycle_event _⟩

theorem Laws.EncodingMatchesRow.pushRsvd (len : Len) (value : Value) :
    Laws.EncodingMatchesRow.Statement (.pushRsvd len value) :=
  ⟨(by decide : (0x2#4 &&& 0xA#4 : EventVector) = 0x2#4), decodeCycle_event _⟩

end Sys2Proof
end

