-- ==== Sys2Proof/Laws/Run.lean ====
section
/-! SUPPORT. Runs of whole cycles, one step at a time, and what a cycle's own bookkeeping leaves. -/

namespace Sys2Proof.Machine

theorem core_run_zero (s : State) : Sys2Proof.core.run 0 s = .next s := rfl

theorem hostRun_next (M : Host.Core) (n : Nat) (s t : M.State) (h : M.step s = .next t) : M.run (n + 1) s = M.run n t := by
  rw [Host.Core.run, h]

/-- A run goes on from the next state of its first step. -/
theorem core_run_succ {s t : State} (n : Nat) (h : step s = .next t) :
    Sys2Proof.core.run (n + 1) s = Sys2Proof.core.run n t :=
  hostRun_next Sys2Proof.core n s t h

/-- The bookkeeping of a cycle writes the divider and drops the sample, nothing else. -/
theorem State.advance_eq (s : State) :
    s.advance = { s with inputs := s.inputs.tail, div := s.advance.div } := by
  unfold State.advance
  split <;> rfl

@[simp] theorem State.advance_cfg (s : State) : s.advance.cfg = s.cfg := by rw [State.advance_eq]

@[simp] theorem State.advance_clk (s : State) : s.advance.clk = s.clk := by rw [State.advance_eq]

@[simp] theorem State.advance_pwValue (s : State) : s.advance.pwValue = s.pwValue := by rw [State.advance_eq]

@[simp] theorem State.advance_pwPos (s : State) : s.advance.pwPos = s.pwPos := by rw [State.advance_eq]

@[simp] theorem State.advance_pwLen (s : State) : s.advance.pwLen = s.pwLen := by rw [State.advance_eq]

@[simp] theorem State.advance_qCount (s : State) : s.advance.qCount = s.qCount := by rw [State.advance_eq]

@[simp] theorem State.advance_qRd (s : State) : s.advance.qRd = s.qRd := by rw [State.advance_eq]

@[simp] theorem State.advance_qMem (s : State) : s.advance.qMem = s.qMem := by rw [State.advance_eq]

@[simp] theorem State.advance_dat (s : State) : s.advance.dat = s.dat := by rw [State.advance_eq]

@[simp] theorem State.advance_run (s : State) : s.advance.run = s.run := by rw [State.advance_eq]

@[simp] theorem State.advance_pinLog (s : State) : s.advance.pinLog = s.pinLog := by rw [State.advance_eq]

@[simp] theorem State.advance_inputs (s : State) : s.advance.inputs = s.inputs.tail := by rw [State.advance_eq]

end Sys2Proof.Machine
end

