-- ==== Sys2Proof/Tests/Slice0.lean ====
section
/-! SUPPORT. Tests whose expected values are the spec's own vectors (95_test_vectors.md, section named at each), and for
each statement with hypotheses a state and operands that meet them. -/

namespace Sys2Proof.Tests

open Sys2Proof Sys2Proof.Machine

/-! ### Well-formedness: an ill-formed term for each check -/

theorem test_push_row_refuses_len_32 : (Instr.push 32 0).wellFormed = false := by decide

theorem test_pushRsvd_row_refuses_len_32 : (Instr.pushRsvd 32 0).wellFormed = false := by decide

theorem test_wellFormed_bounds :
    (Instr.push 31 0).wellFormed = true ∧ (Instr.pushRsvd 33 0).wellFormed = true := by decide

/-! ### Decoding: words written out from 30_encoding.md R61, R62, R69 and 95_test_vectors.md B9 -/

theorem test_decode_reset : decodeTableWord 8 0b1000 = some .reset := by decide

theorem test_decode_reset_ignores_the_rest : decodeTableWord 8 0b1111 = some .reset := by decide

theorem test_decode_start : decodeTableWord 8 0b0100 = some .start := by decide

theorem test_decode_tickEmit : decodeRow .active false 0b0001 = .ok .tickEmit := by decide

theorem test_decode_tickLoad : decodeRow .loadPending false 0b0001 = .ok .tickLoad := by decide

theorem test_decode_tickIdle : decodeTableWord 8 0b0001 = some .tickIdle := by decide

/-- B9: value 0x0000000B, length 4, entry 0x040000000B; vector 0x2. -/
theorem test_decode_push : decodeTableWord 48 0x040000000B02 = some (.push 4 0x0000000B) := by decide

/-- B9: value 0xDEADBEEF, length 17, entry 0x11DEADBEEF. -/
theorem test_decode_push_fields : decodeTableWord 48 0x11DEADBEEF02 = some (.push 17 0xDEADBEEF) := by decide

/-- B9: value 0x80000001, length 32, entry 0x2080000001. -/
theorem test_decode_push32 : decodeTableWord 48 0x208000000102 = some (.push32 0x80000001) := by decide

/-- B5: `push 0x1, 1`, entry 0x0100000001, into a full queue. -/
theorem test_decode_pushFull : decodeRow .idle true 0x010000000102 = .ok (.pushFull 1 1) := by decide

/-- B9: value 0xFFFFFFFF, length 33 (reserved), entry 0x21FFFFFFFF. -/
theorem test_decode_pushRsvd : decodeTableWord 48 0x21FFFFFFFF02 = some (.pushRsvd 33 0xFFFFFFFF) := by decide

/-- R69: `tick + push`, encoding 0x3, is the two events in that order. -/
theorem test_decode_tick_and_push :
    decodeCycle 0x3 0x0100000001 = [.tick, .push 1 1] := by decide

theorem test_decode_stops :
    splitWord 0x12 = .error .beyondVector ∧ splitWord 0x400000000002 = .error .beyondEntry ∧
      decodeRow .idle false 0x0 = .error .noEvent := by decide

/-! ### States -/

/-- The reference build with another queue depth. -/
def cfgOf (q : Nat) (h : 1 ≤ q) : Config := { Config.reference with qdepth := q, qdepth_pos := h }

/-- Started, idle, nothing queued. -/
def sIdle : State := { State.reset with run := true }

/-- 95_test_vectors.md B2: the word 0xB of length 4 at position 2. -/
def sEmit : State := { sIdle with clk := true, dat := true, pwValue := 0xB, pwPos := 2, pwLen := 4 }

/-- B2: the last bit of a 32-bit word. -/
def sLastBit : State := { sIdle with pwValue := 0x80000000, pwPos := 31, pwLen := 32 }

/-- B3: the first load after reset. -/
def sLoad : State := { sIdle with qCount := 1, qMem := [(0, 0x040000000B)] }

/-- B3: the cursor at the last index, a full-length word there. -/
def sWrap : State :=
  { sIdle with
    dat := true, pwValue := 0x1, pwPos := 1, pwLen := 1, qCount := 3, qRd := 3
    qMem := [(0, 0x0100000000), (1, 0x0000000000), (3, 0x2080000001)] }

/-- B5: a full queue of four. -/
def sFull : State :=
  { sIdle with
    qCount := 4, qRd := 2
    qMem := [(0, 0x0100000000), (1, 0x0000000000), (2, 0x0200000003), (3, 0x2080000001)] }

/-- B5: two entries at the end of the ring. -/
def sTwo : State := { sIdle with qCount := 2, qRd := 3, qMem := [(0, 0x0100000001), (3, 0x0200000002)] }

/-- B6: a queue of depth one holding one entry. -/
def sOne : State :=
  { State.resetWith (cfgOf 1 (by decide)) [⟨false, false, true, 0, 2⟩] with
    run := true, div := 0, qCount := 1, qMem := [(0, 0x0100000001)] }

/-- The state an answer holds, if it holds one. -/
def stateOf : Result → Option State
  | .next t => some t
  | .fault _ => none
  | .refused _ => none

/-! ### One step each -/

/-- B8: any state before. -/
theorem test_reset :
    (stateOf (exec .reset { sFull with clk := true, dat := true, pwValue := 0x3, pwPos := 2, pwLen := 32 })).map
      (fun t => ((t.clk, t.dat, t.run), (t.pwValue, t.pwPos, t.pwLen), t.qCount, t.qRd)) =
    some ((false, false, false), (0, 0, 0), 0, 0) := by decide

/-- B7. -/
theorem test_start :
    (stateOf (exec .start State.reset)).map (fun t => (t.run, t.clk, t.dat, t.qCount, t.div)) =
      some (true, false, false, 0, 4) ∧
    (stateOf (exec .start { sIdle with div := 2 })).map (fun t => (t.run, t.div)) = some (true, 2) := by decide

/-- 40_tick.md R82, example: bit 2 of 0b1011. -/
theorem test_tickEmit :
    (stateOf (exec .tickEmit sEmit)).map (fun t => (t.clk, t.dat, t.pwPos, t.pwLen, t.pinLog)) =
    some (false, false, 3, 4, [.clk false, .dat false]) := by decide

/-- B2: bit 31; the position reaches 32. -/
theorem test_tickEmit_last_bit :
    (stateOf (exec .tickEmit sLastBit)).map (fun t => (t.clk, t.dat, t.pwPos, t.idle)) =
    some (true, true, 32, true) := by decide

/-- B3: the first load after reset; no `dat` event. -/
theorem test_tickLoad :
    (stateOf (exec .tickLoad sLoad)).map (fun t => ((t.clk, t.dat, t.pinLog), t.pwValue, t.pwPos, t.pwLen)) =
    some ((true, false, [.clk true]), 0xB, 0, 4) := by decide

/-- B3: the cursor wraps from 3 to 0; a full-length word. -/
theorem test_tickLoad_wraps :
    (stateOf (exec .tickLoad sWrap)).map (fun t => (t.pwValue, t.pwLen, t.qCount, t.qRd, t.dat)) =
    some (0x80000001, 32, 2, 0, true) := by decide

/-- B4: idle after a word; the data line holds the last bit. -/
theorem test_tickIdle :
    (stateOf (exec .tickIdle { sEmit with pwPos := 4 })).map (fun t => (t.clk, t.dat, t.pwPos, t.pinLog)) =
    some (false, true, 4, [.clk false]) := by decide

/-- B5: the write index wraps, (3 + 2) mod 4 = 1. -/
theorem test_push_wraps :
    (stateOf (exec (.push 6 0x2A) sTwo)).map (fun t => (t.qCount, t.qRd, Memory.read t.qMem 1)) =
    some (3, 3, some 0x060000002A) := by decide

/-- B5: the largest legal length. -/
theorem test_push32 :
    (stateOf (exec (.push32 0xFFFFFFFF) State.reset)).map (fun t => (t.qCount, Memory.read t.qMem 0)) =
    some (1, some 0x20FFFFFFFF) := by decide

/-- B5: dropped. -/
theorem test_pushFull : stateOf (exec (.pushFull 1 0x1) sFull) = some sFull := by decide

/-- B5: dropped. -/
theorem test_pushRsvd : stateOf (exec (.pushRsvd 63 0xAAAAAAAA) State.reset) = some State.reset := by decide

/-- B6: a load and a push in one cycle, queue depth one. -/
theorem test_cycle_load_then_push :
    (stateOf (step sOne)).map (fun t => ((t.clk, t.pinLog), (t.pwValue, t.pwLen), t.qCount, t.qMem)) =
    some ((true, [.clk true]), (0x1, 1), 1, [(0, 0x0200000000)]) := by decide

/-- B8: `EV` = 0xF is a reset and nothing else. -/
theorem test_cycle_reset_overrides : stateOf (step (sLoad.withFetchWord 8 0xF)) = some State.reset := by decide

/-- The presented word 0x1 runs TICK.IDLE right after reset. -/
theorem test_fetch_tick :
    (stateOf (step (State.reset.withFetchWord 8 0x1))).map (fun t => (t.clk, t.dat, t.pwLen, t.div)) =
    some (true, false, 0, 4) := by decide

/-- The presented word of `push 0xB, 4` stores its entry right after reset. -/
theorem test_fetch_push :
    (stateOf (step (State.reset.withFetchWord 48 0x040000000B02))).map (fun t => (t.qCount, t.qMem)) =
    some (1, [(0, 0x040000000B)]) := by decide

/-- B10. -/
theorem test_build_refuses :
    buildConfig 4 0 1 false = none ∧ buildConfig 4 200001 1 false = none ∧
      (buildConfig 4 150000 80 false).map (fun c => (tickPeriodUs c, tickDiv c)) = some (6, 480) := by decide

/-- B11: what a transition-sampling target sees of program P1's trace. -/
theorem test_edgeSamples :
    edgeSamples false [.clk true, .clk false, .dat true, .clk true, .dat true, .clk false, .dat false, .clk true,
      .dat true, .clk false] =
    [(true, false), (false, false), (true, true), (false, true), (true, false), (false, true)] := by decide

/-! ### The invariant holds in the states above -/

theorem sIdle_inv : sIdle.Inv :=
  ⟨by decide, by decide, by decide, by decide, by decide, by decide, by decide, by decide⟩

theorem sEmit_inv : sEmit.Inv :=
  ⟨by decide, by decide, by decide, by decide, by decide, by decide, by decide, by decide⟩

theorem sLastBit_inv : sLastBit.Inv :=
  ⟨by decide, by decide, by decide, by decide, by decide, by decide, by decide, by decide⟩

theorem sLoad_inv : sLoad.Inv :=
  ⟨by decide, by decide, by decide, by decide, by decide, by decide, by decide, by decide⟩

theorem sWrap_inv : sWrap.Inv :=
  ⟨by decide, by decide, by decide, by decide, by decide, by decide, by decide, by decide⟩

theorem sFull_inv : sFull.Inv :=
  ⟨by decide, by decide, by decide, by decide, by decide, by decide, by decide, by decide⟩

theorem sOne_inv : sOne.Inv :=
  ⟨by decide, by decide, by decide, by decide, by decide, by decide, by decide, by decide⟩

/-! ### Witnesses: the hypotheses of each statement are met -/

theorem witness_ResetForgetsWhatWasBefore :
    sFull.cfg = State.reset.cfg ∧ sFull.inputs = State.reset.inputs ∧ sFull ≠ State.reset := by decide

theorem witness_StartSetsRunOnce : State.reset.run = false ∧ sIdle.run = true := by decide

theorem witness_OnlyResetStopsTheTicks :
    doEvent .tick sIdle = .next sIdle.toggleClk ∧ sIdle.run = true ∧ sIdle.ports.rst = false ∧
      doEvent (.push 33 0) State.reset = .next State.reset ∧ State.reset.run = false ∧
      State.reset.ports.start = false ∧ step State.reset = .next State.reset :=
  ⟨rfl, rfl, rfl, rfl, rfl, rfl, rfl⟩

/-- A stopped block with a producer that pushes. -/
def sStopped : State := { State.reset with inputs := [⟨false, false, true, 0xB, 4⟩] }

theorem witness_PinsStayUntilStart :
    sStopped.run = false ∧ ∀ p ∈ sStopped.inputs, p.start = false ∧ p.rst = false := by decide

theorem witness_TickEmitDrivesOneBit :
    sEmit.run = true ∧ sEmit.pwPos.toNat < sEmit.pwLen.toNat ∧
      sLastBit.run = true ∧ sLastBit.pwPos.toNat < sLastBit.pwLen.toNat ∧ sLastBit.pwLen.toNat ≤ 32 := by decide

theorem witness_TickLoadPopsTheEntryAtTheCursor :
    sWrap.run = true ∧ sWrap.pwLen.toNat ≤ sWrap.pwPos.toNat ∧ 0 < sWrap.qCount ∧
      Memory.read sWrap.qMem sWrap.qRd = some 0x2080000001 ∧
      (0x2080000001 : Entry).toNat = (32 : Len).toNat * 2 ^ 32 + (0x80000001 : Value).toNat ∧
      sWrap.qCount ≤ sWrap.cfg.qdepth := by decide

theorem witness_TickIdleTogglesTheClockAlone :
    sIdle.run = true ∧ sIdle.pwLen.toNat ≤ sIdle.pwPos.toNat ∧ sIdle.qCount = 0 := by decide

theorem witness_TickStopsOnlyByName :
    exec .tickIdle State.reset = .refused .tickNotEnabled ∧
      exec .tickLoad { sLoad with qMem := [] } = .fault .unwrittenEntry := ⟨rfl, rfl⟩

theorem witness_ExactlyOneClassHolds :
    sEmit.Inv ∧ sEmit.active = true ∧ sLoad.Inv ∧ sLoad.loadPending = true ∧ sIdle.Inv ∧ sIdle.idle = true :=
  ⟨sEmit_inv, by decide, sLoad_inv, by decide, sIdle_inv, by decide⟩

theorem witness_SelectedRowMeetsItsCondition : sIdle.Inv ∧ (Event.tick = .tick → sIdle.run = true) :=
  ⟨sIdle_inv, fun _ => rfl⟩

/-- The states of the rows of 40_tick.md R90 for a TICK. -/
theorem witness_ClassTransitionsFollowTheTable :
    sEmit.Inv ∧ sEmit.cls = .active ∧ sEmit.pwPos.toNat + 1 < sEmit.pwLen.toNat ∧
      sLastBit.Inv ∧ sLastBit.cls = .active ∧ sLastBit.pwPos.toNat + 1 = sLastBit.pwLen.toNat ∧ sLastBit.qCount = 0 ∧
      sLoad.Inv ∧ sLoad.cls = .loadPending ∧ (stateOf (doEvent .tick sLoad)).isSome = true ∧
      sIdle.Inv ∧ sIdle.cls = .idle ∧ doEvent .tick sIdle = .next sIdle.toggleClk ∧
      (stateOf (doEvent (.push 32 0) sIdle)).isSome = true :=
  ⟨sEmit_inv, by decide, by decide, sLastBit_inv, by decide, by decide, by decide, sLoad_inv, by decide, by decide,
    sIdle_inv, by decide, rfl, by decide⟩

/-- A last bit with a successor of length 0 waiting. -/
def sLastThenEmpty : State := { sLastBit with qCount := 1, qMem := [(0, 0)] }

/-- One entry of length 0, and two. -/
def sEmptyWord : State := { sIdle with qCount := 1, qMem := [(0, 0)] }

def sEmptyWords : State := { sIdle with qCount := 2, qMem := [(0, 0), (1, 0)] }

theorem sLastThenEmpty_inv : sLastThenEmpty.Inv :=
  ⟨by decide, by decide, by decide, by decide, by decide, by decide, by decide, by decide⟩

theorem sEmptyWord_inv : sEmptyWord.Inv :=
  ⟨by decide, by decide, by decide, by decide, by decide, by decide, by decide, by decide⟩

theorem sEmptyWords_inv : sEmptyWords.Inv :=
  ⟨by decide, by decide, by decide, by decide, by decide, by decide, by decide, by decide⟩

/-- The remaining rows of 40_tick.md R90: a successor waiting, and zero-length entries. -/
theorem witness_ClassTransitions_zero_length :
    sLastThenEmpty.Inv ∧ sLastThenEmpty.cls = .active ∧ (stateOf (doEvent .tick sLastThenEmpty)).isSome = true ∧
      sEmptyWord.Inv ∧ (stateOf (doEvent .tick sEmptyWord)).map (fun t => (t.pwLen, t.cls)) = some (0, .idle) ∧
      sEmptyWords.Inv ∧
      (stateOf (doEvent .tick sEmptyWords)).map (fun t => (t.pwLen, t.cls)) = some (0, .loadPending) :=
  ⟨sLastThenEmpty_inv, by decide, by decide, sEmptyWord_inv, by decide, sEmptyWords_inv, by decide⟩

/-- Lengths at both ends of the legal range, and room for one entry exactly. -/
theorem witness_PushStoresTheEntryOrDropsIt :
    sWrap.qCount < sWrap.cfg.qdepth ∧ sWrap.qCount + 1 = sWrap.cfg.qdepth ∧ (32 : Len).toNat ≤ 32 ∧
      (0 : Len).toNat ≤ 32 ∧ sIdle.qCount = 0 ∧ sIdle.qRd < sIdle.cfg.qdepth ∧ sIdle.idle = true ∧
      sFull.cfg.qdepth ≤ sFull.qCount ∧ 33 ≤ (33 : Len).toNat := by decide

theorem witness_PushIntoFullQueueIsDropped :
    sFull.cfg.qdepth ≤ sFull.qCount ∧ isPush .tick = false ∧ sLoad.pushReady = true ∧
      (stateOf (doEvent .tick sLoad)).isSome = true := by decide

theorem witness_PushOfReservedLengthIsDropped : 33 ≤ (33 : Len).toNat ∧ 33 ≤ (63 : Len).toNat := by decide

theorem witness_PushIsSeenByTheNextTick :
    sIdle.Inv ∧ sIdle.run = true ∧ sIdle.idle = true ∧ (32 : Len).toNat ≤ 32 :=
  ⟨sIdle_inv, by decide, by decide, by decide⟩

theorem witness_EachElementHasItsWriters :
    (stateOf (exec .tickEmit sEmit)).isSome = true ∧ (stateOf (exec .tickLoad sLoad)).isSome = true ∧
      (stateOf (exec (.push 6 0x2A) sTwo)).isSome = true := by decide

theorem witness_DecodeInvertsEncode :
    (Instr.push 31 0xFFFFFFFF).wellFormed = true ∧ (32 : Len).toNat ≤ 32 ∧
      (Instr.pushRsvd 33 0).wellFormed = true ∧ (Instr.pushRsvd 63 0).wellFormed = true := by decide

theorem witness_PresentedWordIsTheCyclesEvent : decodeTableWord 8 0x1 = some .tickIdle := by decide

theorem witness_StepRunsTheDecodedRow :
    (sIdle.withFetchWord 8 0x1).cycleEvents = [.tick] ∧ State.reset.cycleEvents = [] := by decide

/-- One cycle with START, the strobe and a push together; and one with `rst`. -/
theorem witness_EventsOfACycleHappenInOrder :
    ({ sOne with inputs := [⟨false, true, true, 0, 2⟩] } : State).cycleEvents = [.start, .tick, .push 2 0] ∧
      ({ sOne with inputs := [⟨true, true, true, 0, 2⟩] } : State).ports.rst = true := by decide

/-- The same block with nothing queued. -/
def sOneIdle : State := { sOne with qCount := 0 }

theorem sOneIdle_inv : sOneIdle.Inv :=
  ⟨by decide, by decide, by decide, by decide, by decide, by decide, by decide, by decide⟩

/-- The first case is met by a full queue of one, the second by an idle block. -/
theorem witness_PushBesideATickComesAfterIt :
    (sOne.Inv ∧ sOne.ports.rst = false ∧ sOne.strobe = true ∧ sOne.ports.pushValid = true ∧
      sOne.ports.pushLen.toNat ≤ 32 ∧ sOne.cls = .loadPending ∧ sOne.qCount = sOne.cfg.qdepth) ∧
    (sOneIdle.Inv ∧ sOneIdle.ports.rst = false ∧ sOneIdle.strobe = true ∧ sOneIdle.ports.pushValid = true ∧
      sOneIdle.ports.pushLen.toNat ≤ 32 ∧ sOneIdle.cls = .idle) :=
  ⟨⟨sOne_inv, by decide⟩, sOneIdle_inv, by decide⟩

theorem witness_StepKeepsTheInvariant : sOne.Inv ∧ (stateOf (step sOne)).isSome = true :=
  ⟨sOne_inv, by decide⟩

theorem witness_StepAlwaysAnswersNext : sFull.Inv := sFull_inv

theorem witness_StepKeepsPinsAtLoggedLevels :
    ({ sEmit with pinLog := [.clk true, .dat true] } : State).PinsFollowLog ∧
      (stateOf (step { sEmit with pinLog := [.clk true, .dat true], div := 0 })).isSome = true :=
  ⟨⟨rfl, rfl⟩, by decide⟩

theorem witness_RegisterWidthsSuffice : sFull.Inv := sFull_inv

theorem witness_RingRefinesTheList : sWrap.Inv := sWrap_inv

/-- A push between the ticks; the last bit of the word. -/
theorem witness_EmissionLaw :
    ({ sEmit with pwPos := 0 } : State).run = true ∧ Event.reset ∉ [Event.tick, .push 1 1, .tick, .tick, .tick] ∧
      [Event.tick, .push 1 1, .tick, .tick, .tick].count .tick = ({ sEmit with pwPos := 0 } : State).pwLen.toNat := by
  decide

theorem witness_IdleLaw :
    sIdle.run = true ∧ sIdle.idle = true ∧
      (stateOf (doEvent (.push 1 1) sIdle)).map State.idle = some false := by decide

theorem witness_DrainingLaw : sWrap.Inv ∧ sWrap.run = true ∧ sWrap.pwPos = sWrap.pwLen :=
  ⟨sWrap_inv, by decide, by decide⟩

theorem witness_ClockParityLaw :
    Event.reset ∉ [Event.tick, .push 1 1, .tick] ∧
      (stateOf (runEvents [.tick, .push 1 1, .tick] sIdle)).isSome = true := by decide

theorem witness_FifoLaw :
    State.reset.Inv ∧ Event.reset ∉ [Event.push 4 0xB, .push 1 1, .start, .tick, .tick] ∧
      allStored [.push 4 0xB, .push 1 1, .start, .tick, .tick] State.reset = true ∧
      (stateOf (runEvents [.push 4 0xB, .push 1 1, .start, .tick, .tick] State.reset)).isSome = true :=
  ⟨⟨by decide, by decide, by decide, by decide, by decide, by decide, by decide, by decide⟩, by decide, by decide,
    by decide⟩

theorem witness_FrameOfAnEntry :
    sLoad.Inv ∧ sLoad.run = true ∧ sLoad.cls = .loadPending ∧
      Memory.read sLoad.qMem sLoad.qRd = some 0x040000000B ∧ 4 ≤ (entryLen 0x040000000B).toNat :=
  ⟨sLoad_inv, by decide, by decide, by decide, by decide⟩

/-- B2: bits above the length have no effect. -/
theorem witness_BitsAboveTheLengthDoNotShow :
    sIdle.Inv ∧ sIdle.run = true ∧
      (0xFFFFFFF0 : Value).toNat % 2 ^ (4 : Len).toNat = (0x0 : Value).toNat % 2 ^ (4 : Len).toNat :=
  ⟨sIdle_inv, by decide, by decide⟩

theorem witness_SamplingLaw :
    sLoad.Inv ∧ sLoad.run = true ∧ sLoad.cls = .loadPending ∧
      Memory.read sLoad.qMem sLoad.qRd = some 0x040000000B :=
  ⟨sLoad_inv, by decide, by decide, by decide⟩

/-- The second entry pushed before the start, and while the first goes out. -/
theorem witness_IndependenceLaw :
    Event.reset ∉ [Event.push 1 1, .push 1 0, .start, .tick, .tick, .tick] ∧
      Event.reset ∉ [Event.push 1 1, .start, .tick, .push 1 0, .tick, .tick] ∧
      pushedEntries [.push 1 1, .push 1 0, .start, .tick, .tick, .tick] =
        pushedEntries [.push 1 1, .start, .tick, .push 1 0, .tick, .tick] ∧
      allStored [.push 1 1, .push 1 0, .start, .tick, .tick, .tick] State.reset = true ∧
      allStored [.push 1 1, .start, .tick, .push 1 0, .tick, .tick] State.reset = true ∧
      noEarlyIdle [.push 1 1, .push 1 0, .start, .tick, .tick, .tick] State.reset = true ∧
      noEarlyIdle [.push 1 1, .start, .tick, .push 1 0, .tick, .tick] State.reset = true ∧
      (stateOf (runEvents [.push 1 1, .push 1 0, .start, .tick, .tick, .tick] State.reset)).isSome = true ∧
      (stateOf (runEvents [.push 1 1, .start, .tick, .push 1 0, .tick, .tick] State.reset)).isSome = true := by
  decide

theorem witness_PeriodIsTheRoundedQuotient :
    Config.reference.rate = 200000 ∧ (buildConfig 1 100000 1 true).map Config.rate = some 100000 ∧
      (buildConfig 1 3 1 true).map Config.rate = some 3 ∧ (buildConfig 1 1 1 true).map Config.rate = some 1 := by
  decide

/-- A stopped block that the host starts in its next cycle. -/
def sStarting : State := { State.reset with inputs := [⟨false, true, false, 0, 0⟩] }

theorem witness_TicksComeOncePerPeriod :
    sFull.Inv ∧ sFull.run = true ∧ (∀ p ∈ sFull.inputs, p.rst = false) ∧
      sStarting.Inv ∧ sStarting.run = false ∧ sStarting.ports.start = true ∧
      (∀ p ∈ sStarting.inputs, p.rst = false) :=
  ⟨sFull_inv, by decide, by decide,
    ⟨by decide, by decide, by decide, by decide, by decide, by decide, by decide, by decide⟩, by decide, by decide,
    by decide⟩

theorem witness_QueuedEntriesGoOutInTheirTime :
    sWrap.Inv ∧ sWrap.run = true ∧ sWrap.inputs = [] ∧ sWrap.pwPos = sWrap.pwLen ∧
      sWrap.div = tickDiv sWrap.cfg - 1 :=
  ⟨sWrap_inv, by decide, by decide, by decide, by decide⟩

end Sys2Proof.Tests
end

section
/-! The statements of 10_state.md: the classes of states (R25) and the reset values (R29). -/

namespace Sys2Proof.Machine

/-! ### The classes of a state that meets the invariant (10_state.md R25) -/

/-- `PW_POS <= PW_LEN` (R15) turns the equality that defines EXHAUSTED into the bound the class test asks for. -/
theorem State.Inv.pwPos_eq_pwLen_iff {s : State} (h : s.Inv) :
    s.pwPos = s.pwLen ↔ ¬ s.pwPos.toNat < s.pwLen.toNat := by
  have hpos := h.pos_le_len
  rw [← BitVec.toNat_inj]
  omega

theorem State.active_iff_cls {s : State} : s.active = true ↔ s.cls = .active := by
  rw [State.active_iff, State.cls_active]

theorem State.Inv.loadPending_iff_cls {s : State} (h : s.Inv) :
    s.loadPending = true ↔ s.cls = .loadPending := by
  rw [State.loadPending_iff, State.cls_loadPending, h.pwPos_eq_pwLen_iff]

theorem State.Inv.idle_iff_cls {s : State} (h : s.Inv) : s.idle = true ↔ s.cls = .idle := by
  rw [State.idle_iff, State.cls_idle, h.pwPos_eq_pwLen_iff]

/-- A state has one class, and each predicate is the test for its class; so exactly one of the three
holds. -/
theorem State.Inv.class_count {s : State} (h : s.Inv) :
    s.active.toNat + s.loadPending.toNat + s.idle.toNat = 1 := by
  have hactive : s.active = decide (s.cls = .active) := Bool.eq_iff_iff.2 (by simp [State.active_iff_cls])
  have hload : s.loadPending = decide (s.cls = .loadPending) :=
    Bool.eq_iff_iff.2 (by simp [h.loadPending_iff_cls])
  have hidle : s.idle = decide (s.cls = .idle) := Bool.eq_iff_iff.2 (by simp [h.idle_iff_cls])
  rw [hactive, hload, hidle]
  cases s.cls with
  | active => rfl
  | loadPending => rfl
  | idle => rfl

/-- The choice of a TICK's arm reads `PW_POS`, `PW_LEN` and `Q_COUNT`, not the clock line (40_tick.md R85). -/
theorem State.cls_with_clk (s : State) (c : Bool) : ({ s with clk := c } : State).cls = s.cls := rfl

/-- Settles O11: under R15 each predicate is the test for its class, and a state has one class. -/
theorem exactlyOneClassHolds : Obligations.ExactlyOneClassHolds := by
  intro s h
  have hexhausted : s.exhausted = true ↔ ¬ s.pwPos.toNat < s.pwLen.toNat := by
    rw [State.exhausted_iff, h.pwPos_eq_pwLen_iff]
  exact ⟨hexhausted, State.active_iff_cls, h.loadPending_iff_cls, h.idle_iff_cls, h.class_count, s.cls_with_clk⟩

/-! ### The state after RESET (10_state.md R29) -/

theorem State.resetWith_idle (c : Config) (inputs : List PortSample) : (State.resetWith c inputs).idle = true :=
  State.idle_iff.2 ⟨rfl, rfl⟩

/-- A queue just emptied has room, because a build has `QDEPTH >= 1` (00_scope.md R5). -/
theorem State.resetWith_pushReady (c : Config) (inputs : List PortSample) :
    (State.resetWith c inputs).pushReady = true :=
  State.pushReady_iff.2 c.qdepth_pos

/-- Settles O1: RESET answers the reset values of the state's own build; each element is read off them, and the class
and `push_ready` follow from them. -/
theorem resetTakesResetValues : Obligations.ResetTakesResetValues := by
  intro s
  have hexec : exec .reset s = .next (State.resetWith s.cfg s.inputs) := exec_event .reset s
  have hidle := State.resetWith_idle s.cfg s.inputs
  have hready := State.resetWith_pushReady s.cfg s.inputs
  exact ⟨_, hexec, rfl, rfl, rfl, rfl, rfl, rfl, rfl, rfl, rfl, rfl, rfl, hidle, hready, rfl, rfl⟩

end Sys2Proof.Machine
end

section
/-! What every event of a run keeps (10_state.md R15, R19, R22), and the FIFO law of the queue (20_memory.md R47). -/

namespace Sys2Proof.Machine

/-! ### The invariant after each operation -/

/-- The pending word and the queue are empty, and `DIV` starts below a `TICK_DIV` that is not 0. -/
theorem State.resetWith_inv (c : Config) (inputs : List PortSample) : (State.resetWith c inputs).Inv where
  pos_le_len := Nat.le_refl 0
  len_le := Nat.zero_le 32
  count_le := Nat.zero_le _
  rd_lt := c.qdepth_pos
  live := nofun
  mem_wf := rfl
  mem_lt := nofun
  div_lt := Nat.sub_one_lt (Nat.ne_zero_of_lt (five_le_tickDiv c))

theorem State.Inv.after_startRun {s : State} (h : s.Inv) : s.startRun.Inv :=
  { h with div_lt := Nat.sub_one_lt (Nat.ne_zero_of_lt (five_le_tickDiv s.cfg)) }

theorem State.Inv.after_toggleClk {s : State} (h : s.Inv) : s.toggleClk.Inv := { h with }

/-- An emit happens where the position is below the length, so the next position is at most the length. -/
theorem State.Inv.after_emitArm {s : State} (h : s.Inv) (hcls : s.cls = .active) : (emitArm s).Inv :=
  have hlt : s.pwPos.toNat < s.pwLen.toNat := State.cls_active.1 hcls
  { h with pos_le_len := (pos_succ hlt).trans_le hlt }

/-- The entry loaded was in the live window, so its length is at most 32; the window loses its first slot. -/
theorem State.Inv.after_popQueue_loadPendingWord {s : State} {e : Entry} (h : s.Inv) (hcount : 0 < s.qCount)
    (he : s.slot 0 = some e) : (s.loadPendingWord e).popQueue.Inv :=
  have hlen : (entryLen e).toNat ≤ 32 := by simpa [he, lenLegal] using h.live 0 hcount
  { h with
    pos_le_len := Nat.zero_le _
    len_le := hlen
    count_le := (Nat.sub_le _ _).trans h.count_le
    rd_lt := Nat.mod_lt _ s.cfg.qdepth_pos
    live := fun k hk => by
      rw [slot_popQueue]
      exact h.live (k + 1) (Nat.add_lt_of_lt_sub hk) }

/-- A stored entry is written inside the store, and the live window gains it as its last slot. -/
theorem State.Inv.after_storeEntry {s : State} {e : Entry} (h : s.Inv) (hroom : s.qCount < s.cfg.qdepth)
    (hlen : (entryLen e).toNat ≤ 32) : (s.storeEntry e).Inv :=
  { h with
    count_le := hroom
    live := fun k hk => by
      rcases Nat.lt_succ_iff_lt_or_eq.1 hk with hk | rfl
      · rw [slot_storeEntry hroom hk]
        exact h.live k hk
      · simpa [slot_storeEntry_new, lenLegal] using hlen
    mem_wf := Memory.write_wf _ _ _ h.mem_wf
    mem_lt := fun c hc => by
      rcases Memory.mem_write hc with rfl | hc
      · exact Nat.mod_lt _ s.cfg.qdepth_pos
      · exact h.mem_lt c hc }

/-! ### The invariant along a run -/

theorem State.Inv.after_tick {s t : State} (h : s.Inv) (ht : tick s = .next t) : t.Inv := by
  obtain ⟨-, ⟨hcls, rfl⟩ | ⟨hcls, e, he, rfl⟩ | ⟨-, rfl⟩⟩ := tick_next ht
  · exact h.after_toggleClk.after_emitArm hcls
  · have hslot : s.toggleClk.slot 0 = some e := (slot_zero h.rd_lt).trans he
    exact h.after_toggleClk.after_popQueue_loadPendingWord (State.cls_loadPending.1 hcls).2 hslot
  · exact h.after_toggleClk

theorem State.Inv.after_push {s : State} (h : s.Inv) (len : Len) (value : Value) : (push len value s).Inv := by
  obtain ⟨hroom, hlen, heq⟩ | ⟨-, heq⟩ := push_cases len value s <;> rw [heq]
  · exact h.after_storeEntry hroom (by rwa [entryLen_packEntry])
  · exact h

theorem State.Inv.after_start {s : State} (h : s.Inv) : (start s).Inv := by
  obtain ⟨-, heq⟩ | ⟨-, heq⟩ := start_cases s <;> rw [heq]
  · exact h.after_startRun
  · exact h

/-- Every event keeps the invariant. -/
theorem State.Inv.after_doEvent {e : Event} {s t : State} (h : s.Inv) (ht : doEvent e s = .next t) : t.Inv := by
  cases e with
  | reset => cases ht; exact State.resetWith_inv s.cfg s.inputs
  | start => cases ht; exact h.after_start
  | tick => exact h.after_tick (by rwa [doEvent_tick] at ht)
  | push len value => rw [doEvent_push] at ht; cases ht; exact h.after_push len value

/-- So does every run that completes. -/
theorem State.Inv.after_runEvents {es : List Event} {s t : State} (h : s.Inv) (ht : runEvents es s = .next t) :
    t.Inv := by
  induction es generalizing s with
  | nil => cases ht; exact h
  | cons e es ih =>
    obtain ⟨u, hu, ht⟩ := runEvents_cons_iff.1 ht
    exact ih (h.after_doEvent hu) ht

/-- Every slot of the live window holds an entry, so the queue's content is as long as the count (R19). -/
theorem State.Inv.queue_length {s : State} (h : s.Inv) : s.queue.length = s.qCount := by
  have hslot : ∀ k ∈ List.range s.qCount, (s.slot k).isSome = true := fun k hk =>
    Option.isSome_of_any (h.live k (List.mem_range.1 hk))
  rw [State.queue, List.length_filterMap_eq_countP, List.countP_eq_length.2 hslot, List.length_range]

/-! ### What each operation leaves of the queue's content -/

@[simp] theorem queue_resetWith (c : Config) (inputs : List PortSample) : (State.resetWith c inputs).queue = [] := rfl

@[simp] theorem queue_toggleClk (s : State) : s.toggleClk.queue = s.queue := rfl

@[simp] theorem queue_emitArm (s : State) : (emitArm s).queue = s.queue := rfl

@[simp] theorem queue_loadPendingWord (s : State) (e : Entry) : (s.loadPendingWord e).queue = s.queue := rfl

@[simp] theorem queue_start (s : State) : (start s).queue = s.queue := by
  obtain ⟨-, heq⟩ | ⟨-, heq⟩ := start_cases s <;> rw [heq]
  · rfl

/-! ### The entries of a run, event by event -/

theorem pushedEntries_cons (e : Event) (es : List Event) :
    pushedEntries (e :: es) = pushedEntries [e] ++ pushedEntries es := by
  cases e <;> rfl

theorem loadedEntries_cons {e : Event} {s t : State} (es : List Event) (ht : doEvent e s = .next t) :
    loadedEntries (e :: es) s = loadedEntries [e] s ++ loadedEntries es t := by
  simp [loadedEntries, ht]

theorem allStored_cons {e : Event} {s t : State} (es : List Event) (ht : doEvent e s = .next t) :
    allStored (e :: es) s = true ↔ s.stores e = true ∧ allStored es t = true := by
  simp [allStored, ht]

/-- An event is a TICK.LOAD exactly if it is a TICK that meets LOAD_PENDING (40_tick.md R85). -/
theorem State.rowOf_eq_tickLoad_iff {s : State} {e : Event} :
    s.rowOf e = .tickLoad ↔ e = .tick ∧ s.cls = .loadPending := by
  cases e with
  | reset => simp [State.rowOf, Event.row]
  | start => simp [State.rowOf, Event.row]
  | tick => cases hcls : s.cls <;> simp [State.rowOf, Event.row, hcls]
  | push len value => simp only [State.rowOf, Event.row]; split_ifs <;> simp

/-- The one event that loads is a TICK that meets LOAD_PENDING; it loads the entry at the cursor. -/
theorem loadedEntries_singleton {e : Event} {s t : State} (ht : doEvent e s = .next t) :
    loadedEntries [e] s =
      if e = .tick ∧ s.cls = .loadPending then (Memory.read s.qMem s.qRd).toList else [] := by
  simp [loadedEntries, ht, State.rowOf_eq_tickLoad_iff]

/-! ### The FIFO law (20_memory.md R47) -/

/-- A TICK takes what it loads from the front of the queue: the head in LOAD_PENDING, else nothing. -/
theorem loadedEntries_tick_append_queue {s t : State} (h : s.Inv) (ht : tick s = .next t) :
    loadedEntries [.tick] s ++ t.queue = s.queue := by
  rw [loadedEntries_singleton ((doEvent_tick s).trans ht)]
  obtain ⟨-, ⟨hcls, rfl⟩ | ⟨hcls, e, he, rfl⟩ | ⟨hcls, rfl⟩⟩ := tick_next ht
  · simp [hcls]
  · have hslot : (s.toggleClk.loadPendingWord e).slot 0 = some e := (slot_zero h.rd_lt).trans he
    have hpop := queue_popQueue (s := s.toggleClk.loadPendingWord e) (State.cls_loadPending.1 hcls).2 hslot
    simpa [hcls, he] using hpop.symm
  · simp [hcls]

/-- A push that is stored appends its entry at the tail. -/
theorem queue_push_of_stores {s : State} {len : Len} {value : Value} (hst : s.stores (.push len value) = true) :
    (push len value s).queue = s.queue ++ [packEntry len value] := by
  have hroom : s.qCount < s.cfg.qdepth := State.pushReady_iff.1 (Bool.and_eq_true_iff.1 hst).1
  calc (push len value s).queue
      = (s.storeEntry (packEntry len value)).queue := congrArg State.queue (if_pos hst)
    _ = s.queue ++ [packEntry len value] := queue_storeEntry hroom

/-- One event: what it loads leaves the queue at the front, what it pushes enters at the tail. -/
theorem loadedEntries_append_queue_of_doEvent {e : Event} {s t : State} (h : s.Inv) (hreset : e ≠ .reset)
    (hst : s.stores e = true) (ht : doEvent e s = .next t) :
    loadedEntries [e] s ++ t.queue = s.queue ++ pushedEntries [e] := by
  cases e with
  | reset => exact absurd rfl hreset
  | start =>
    rw [loadedEntries_singleton ht]
    cases ht
    simp [pushedEntries]
  | tick =>
    rw [doEvent_tick] at ht
    simpa [pushedEntries] using loadedEntries_tick_append_queue h ht
  | push len value =>
    rw [loadedEntries_singleton ht]
    rw [doEvent_push] at ht
    cases ht
    simp [pushedEntries, queue_push_of_stores hst]

/-- A run: its first event's equation, then the rest's from the state that event left. -/
theorem loadedEntries_append_queue {es : List Event} {s t : State} (h : s.Inv) (hreset : .reset ∉ es)
    (hst : allStored es s = true) (ht : runEvents es s = .next t) :
    loadedEntries es s ++ t.queue = s.queue ++ pushedEntries es := by
  induction es generalizing s with
  | nil => cases ht; simp [loadedEntries, pushedEntries]
  | cons e es ih =>
    obtain ⟨u, hu, ht⟩ := runEvents_cons_iff.1 ht
    have hne : e ≠ .reset := fun he => hreset (he ▸ List.mem_cons_self)
    have hrest : .reset ∉ es := fun hmem => hreset (List.mem_cons_of_mem e hmem)
    obtain ⟨hste, hst⟩ := (allStored_cons es hu).1 hst
    calc loadedEntries (e :: es) s ++ t.queue
        = loadedEntries [e] s ++ (loadedEntries es u ++ t.queue) := by
          rw [loadedEntries_cons es hu, List.append_assoc]
      _ = (loadedEntries [e] s ++ u.queue) ++ pushedEntries es := by
          rw [ih (h.after_doEvent hu) hrest hst ht, List.append_assoc]
      _ = s.queue ++ pushedEntries (e :: es) := by
          rw [loadedEntries_append_queue_of_doEvent h hne hste hu, List.append_assoc,
            ← pushedEntries_cons]

/-- Settles O37: the first part is the equation of a run. From reset the queue before it is empty, so what is loaded
followed by what waits is what was pushed, and what waits is as long as `Q_COUNT`. -/
theorem fifoLaw : Obligations.FifoLaw := by
  refine ⟨fun s t es h => loadedEntries_append_queue h, fun c inputs t es hreset hst ht => ?_⟩
  have hinv := State.resetWith_inv c inputs
  have hfifo : loadedEntries es (State.resetWith c inputs) ++ t.queue = pushedEntries es := by
    simpa using loadedEntries_append_queue hinv hreset hst ht
  refine ⟨⟨t.queue, hfifo⟩, ?_⟩
  rw [← hfifo, List.length_append, (hinv.after_runEvents ht).queue_length]

end Sys2Proof.Machine
end

section
/-! The serial frame of an entry (30_encoding.md R65): a load tick that leaves the data line, then a bit a tick. -/

namespace Sys2Proof.Machine

/-- Runs of ticks grow at the end (20_memory.md R46). -/
theorem runEvents_tickLines_succ {n : Nat} {s t u : State} (ht : runEvents (tickLines n) s = .next t)
    (hu : tick t = .next u) : runEvents (tickLines (n + 1)) s = .next u := by
  have hlines : tickLines (n + 1) = tickLines n ++ [.tick] := List.replicate_succ'
  have hlast : doEvent .tick t = .next u := (doEvent_tick t).trans hu
  rw [hlines, runEvents_append ht, runEvents_cons_next [] hlast, runEvents_nil]

/-- What the load tick and the first `j` bit ticks of the frame of `e` log, from clock level `c`
(30_encoding.md R65). -/
def frameEvents (c : Bool) (e : Entry) (j : Nat) : List PinEvent :=
  .clk (!c) :: (List.range j).flatMap fun k =>
    [.clk (c ^^ decide (k % 2 = 1)), .dat (decide ((entryValue e).toNat / 2 ^ k % 2 = 1))]

/-- A further bit tick logs its toggle and its bit. -/
theorem frameEvents_succ (c : Bool) (e : Entry) (j : Nat) :
    frameEvents c e (j + 1) = frameEvents c e j ++
      [.clk (c ^^ decide (j % 2 = 1)), .dat (decide ((entryValue e).toNat / 2 ^ j % 2 = 1))] := by
  simp [frameEvents, List.range_succ]

/-- The level the clock line has after `j` bit ticks, toggled once more (40_tick.md R81). -/
theorem not_xor_even (c : Bool) (j : Nat) : (!(c ^^ decide (j % 2 = 0))) = (c ^^ decide (j % 2 = 1)) := by
  rcases Nat.mod_two_eq_zero_or_one j with h | h <;> simp [h]

/-- `t` is where the load tick and `j` bit ticks of the frame of `e` lead from `s`: the entry is the pending word with
`j` bits sent, and the pins were driven as the frame says. -/
structure State.FrameSent (s : State) (e : Entry) (j : Nat) (t : State) : Prop where
  run : t.run = true
  pwValue : t.pwValue = entryValue e
  pwLen : t.pwLen = entryLen e
  pwPos : t.pwPos.toNat = j
  qCount : t.qCount = s.qCount - 1
  clk : t.clk = (s.clk ^^ decide (j % 2 = 0))
  pinLog : t.pinLog = s.pinLog ++ frameEvents s.clk e j

/-- Tick 0 of a frame is the load: the clock toggles and the data line stays as it was. -/
theorem State.frameSent_zero {s : State} (e : Entry) (hrun : s.run = true) :
    s.FrameSent e 0 (s.toggleClk.loadPendingWord e).popQueue where
  run := hrun
  pwValue := rfl
  pwLen := rfl
  pwPos := rfl
  qCount := rfl
  clk := by simp
  pinLog := rfl

/-- While bits are left the state is ACTIVE (10_state.md R25). -/
theorem State.FrameSent.cls_active {s t : State} {e : Entry} {j : Nat} (h : s.FrameSent e j t)
    (hj : j < (entryLen e).toNat) : t.cls = .active :=
  State.cls_active.2 (by rwa [h.pwPos, h.pwLen])

/-- After the last bit another entry in the queue makes the next tick a load. -/
theorem State.FrameSent.cls_loadPending {s t : State} {e : Entry} {j : Nat} (h : s.FrameSent e j t)
    (hj : j = (entryLen e).toNat) (hcount : 1 < s.qCount) : t.cls = .loadPending := by
  rw [State.cls_loadPending, h.pwPos, h.pwLen, h.qCount]
  exact ⟨hj.not_lt, Nat.sub_pos_of_lt hcount⟩

/-- The bit that comes next is the entry's bit number `j`. -/
theorem State.FrameSent.nextBit {s t : State} {e : Entry} {j : Nat} (h : s.FrameSent e j t) :
    t.nextBit = decide ((entryValue e).toNat / 2 ^ j % 2 = 1) := by
  rw [State.nextBit, valueBit_eq, h.pwValue, h.pwPos]

/-- Each later tick toggles the clock, then drives one bit. -/
theorem State.FrameSent.succ {s t : State} {e : Entry} {j : Nat} (h : s.FrameSent e j t)
    (hj : j < (entryLen e).toNat) : s.FrameSent e (j + 1) (emitArm t.toggleClk) where
  run := h.run
  pwValue := h.pwValue
  pwLen := h.pwLen
  pwPos := (pos_succ (State.cls_active.1 (h.cls_active hj))).trans (congrArg (· + 1) h.pwPos)
  qCount := h.qCount
  clk := by
    have hparity : (j + 1) % 2 = 0 ↔ j % 2 = 1 := by omega
    calc (!t.clk) = (s.clk ^^ decide (j % 2 = 1)) := by rw [h.clk, not_xor_even]
      _ = (s.clk ^^ decide ((j + 1) % 2 = 0)) := by rw [decide_eq_decide.2 hparity]
  pinLog := by
    calc (t.pinLog ++ [.clk (!t.clk)]) ++ [.dat t.nextBit]
        = s.pinLog ++ (frameEvents s.clk e j ++ [.clk (!t.clk), .dat t.nextBit]) := by simp [h.pinLog]
      _ = s.pinLog ++ frameEvents s.clk e (j + 1) := by rw [h.clk, not_xor_even, h.nextBit, frameEvents_succ]

/-- Every prefix of a frame completes, from any state with `RUN` = 1 whose next tick loads the entry. -/
theorem exists_frameSent {s : State} {e : Entry} {j : Nat} (hrun : s.run = true) (hcls : s.cls = .loadPending)
    (he : Memory.read s.qMem s.qRd = some e) (hj : j ≤ (entryLen e).toNat) :
    ∃ t, runEvents (tickLines (j + 1)) s = .next t ∧ s.FrameSent e j t := by
  induction j with
  | zero =>
    exact ⟨_, runEvents_tickLines_succ (runEvents_nil s) (tick_load hrun hcls he), State.frameSent_zero e hrun⟩
  | succ j ih =>
    obtain ⟨t, ht, hsent⟩ := ih (Nat.le_of_succ_le hj)
    exact ⟨_, runEvents_tickLines_succ ht (tick_active hsent.run (hsent.cls_active hj)), hsent.succ hj⟩

/-- Settles O38, by induction on the ticks of the frame: the load, then an emit for each bit. The entry at the cursor is
a premise of the statement, so the invariant has nothing to add. -/
theorem frameOfAnEntry : Obligations.FrameOfAnEntry := by
  intro s e j _ hrun hcls he hj
  obtain ⟨t, ht, hsent⟩ := exists_frameSent hrun hcls he hj
  exact ⟨t, ht, hsent.pwPos, hsent.pinLog, hsent.cls_loadPending⟩

end Sys2Proof.Machine
end

section
/-! What the ticks of a run drive, as a function of what is pending and what is pushed: the draining law
(40_tick.md R88) and the independence law (R93). -/

namespace Sys2Proof.Machine

/-! ### What one tick does to the pins and to the ticks still to come -/

/-- The pin events of a run of ticks are those of its first tick, then the rest's from the clock level it left. -/
theorem tickEvents_cons (c : Bool) (d : Option Bool) (r : List (Option Bool)) :
    tickEvents c (d :: r) = tickEvents c [d] ++ tickEvents (!c) r := by
  cases d <;> rfl

/-- The word of a state that is not ACTIVE has no bit left. -/
theorem State.pendingTicks_of_not_active {s : State} (h : ¬ s.pwPos.toNat < s.pwLen.toNat) :
    s.pendingTicks = s.queue.flatMap entryTicks := by
  rw [State.pendingTicks, wordTicks_nil (Nat.not_lt.1 h), List.nil_append]

/-- With an empty queue nothing is left behind the word's own bits. -/
theorem State.queue_of_qCount_eq_zero {s : State} (h : s.qCount = 0) : s.queue = [] := by
  simp [State.queue, h]

/-- An IDLE state has no tick left that drives anything. -/
theorem State.pendingTicks_of_idle {s : State} (hcls : s.cls = .idle) : s.pendingTicks = [] := by
  obtain ⟨hpos, hcount⟩ := State.cls_idle.1 hcls
  rw [State.pendingTicks_of_not_active hpos, State.queue_of_qCount_eq_zero hcount, List.flatMap_nil]

/-- An ACTIVE state's next tick drives the next bit. -/
theorem State.pendingTicks_of_active {s : State} (hcls : s.cls = .active) :
    s.pendingTicks = some s.nextBit :: (emitArm s.toggleClk).pendingTicks := by
  have hlt := State.cls_active.1 hcls
  have hpos : (emitArm s.toggleClk).pwPos.toNat = s.pwPos.toNat + 1 := pos_succ hlt
  rw [State.pendingTicks, State.pendingTicks, hpos, wordTicks_cons hlt]
  rfl

/-- A LOAD_PENDING state's next tick drives nothing, and the loaded entry's bits come after it. -/
theorem State.pendingTicks_of_loadPending {s : State} {e : Entry} (h : s.Inv) (hcls : s.cls = .loadPending)
    (he : Memory.read s.qMem s.qRd = some e) :
    s.pendingTicks = none :: (s.toggleClk.loadPendingWord e).popQueue.pendingTicks := by
  obtain ⟨hpos, hcount⟩ := State.cls_loadPending.1 hcls
  have hslot : (s.toggleClk.loadPendingWord e).slot 0 = some e := (slot_zero h.rd_lt).trans he
  have hqueue : s.queue = e :: (s.toggleClk.loadPendingWord e).popQueue.queue := queue_popQueue hcount hslot
  rw [State.pendingTicks_of_not_active hpos, hqueue]
  rfl

/-- In LOAD_PENDING the slot at the cursor holds an entry (10_state.md R19 c). -/
theorem State.Inv.exists_entry {s : State} (h : s.Inv) (hcls : s.cls = .loadPending) :
    ∃ e, Memory.read s.qMem s.qRd = some e := by
  rw [← slot_zero h.rd_lt, ← Option.isSome_iff_exists]
  exact Option.isSome_of_any (h.live 0 (State.cls_loadPending.1 hcls).2)

/-- Every class but IDLE has a tick to come. -/
theorem State.Inv.pendingTicks_eq_nil_iff {s : State} (h : s.Inv) : s.pendingTicks = [] ↔ s.cls = .idle := by
  refine ⟨fun hnil => ?_, State.pendingTicks_of_idle⟩
  cases hcls : s.cls with
  | active => exact absurd ((State.pendingTicks_of_active hcls).symm.trans hnil) (List.cons_ne_nil _ _)
  | loadPending =>
    obtain ⟨e, he⟩ := h.exists_entry hcls
    exact absurd ((State.pendingTicks_of_loadPending h hcls he).symm.trans hnil) (List.cons_ne_nil _ _)
  | idle => rfl

/-- A tick toggles the clock line, drives the first of the pending ticks (nothing where there is none) and leaves the
others. -/
theorem tick_drives {s t : State} (h : s.Inv) (ht : tick s = .next t) :
    t.clk = (!s.clk) ∧ t.pinLog = s.pinLog ++ tickEvents s.clk [s.pendingTicks.headD none] ∧
      t.pendingTicks = s.pendingTicks.tail := by
  obtain ⟨-, ⟨hcls, rfl⟩ | ⟨hcls, e, he, rfl⟩ | ⟨hcls, rfl⟩⟩ := tick_next ht
  · rw [State.pendingTicks_of_active hcls]
    exact ⟨rfl, List.append_assoc .., rfl⟩
  · rw [State.pendingTicks_of_loadPending h hcls he]
    exact ⟨rfl, rfl, rfl⟩
  · have hnone : s.toggleClk.pendingTicks = [] := State.pendingTicks_of_idle hcls
    rw [State.pendingTicks_of_idle hcls, hnone]
    exact ⟨rfl, rfl, rfl⟩

/-- START leaves the pins and the queue as they are. -/
theorem start_pins (s : State) :
    (start s).clk = s.clk ∧ (start s).pinLog = s.pinLog ∧ (start s).pendingTicks = s.pendingTicks := by
  obtain ⟨-, heq⟩ | ⟨-, heq⟩ := start_cases s <;> rw [heq]
  · exact ⟨rfl, rfl, rfl⟩
  · exact ⟨rfl, rfl, rfl⟩

/-- PUSH leaves the pins and the pending word as they are; what it may add to is the queue. -/
theorem push_pins (len : Len) (value : Value) (s : State) :
    (push len value s).clk = s.clk ∧ (push len value s).pinLog = s.pinLog ∧
      (push len value s).pendingTicks =
        wordTicks s.pwValue s.pwPos.toNat s.pwLen.toNat ++ (push len value s).queue.flatMap entryTicks := by
  obtain ⟨-, -, heq⟩ | ⟨-, heq⟩ := push_cases len value s <;> rw [heq]
  · exact ⟨rfl, rfl, rfl⟩
  · exact ⟨rfl, rfl, rfl⟩

/-! ### What a run drives -/

/-- What the ticks of a run drive on the data line as long as it lasts: what is pending, then the frames of the entries
that the run pushes (30_encoding.md R65). -/
def State.plannedTicks (s : State) (es : List Event) : List (Option Bool) :=
  s.pendingTicks ++ (pushedEntries es).flatMap entryTicks

theorem plannedTicks_of_no_push {s : State} {es : List Event} (h : pushedEntries es = []) :
    s.plannedTicks es = s.pendingTicks := by
  rw [State.plannedTicks, h, List.flatMap_nil, List.append_nil]

theorem plannedTicks_start (s : State) (es : List Event) :
    (start s).plannedTicks es = s.plannedTicks (.start :: es) := by
  obtain ⟨-, -, hpending⟩ := start_pins s
  exact congrArg (· ++ _) hpending

/-- A stored push moves its entry's frame from what is still to be pushed to what is pending. -/
theorem plannedTicks_push {s : State} {len : Len} {value : Value} (es : List Event)
    (hst : s.stores (.push len value) = true) :
    (push len value s).plannedTicks es = s.plannedTicks (.push len value :: es) := by
  obtain ⟨-, -, hpending⟩ := push_pins len value s
  rw [State.plannedTicks, hpending, queue_push_of_stores hst]
  simp [State.plannedTicks, State.pendingTicks, pushedEntries]

theorem pushedEntries_of_no_push {es : List Event} (h : es.any isPush = false) : pushedEntries es = [] := by
  induction es with
  | nil => rfl
  | cons e es ih =>
    obtain ⟨hpush, hes⟩ := Bool.or_eq_false_iff.1 (List.any_cons.symm.trans h)
    cases e with
    | push len value => exact absurd hpush Bool.noConfusion
    | reset => exact ih hes
    | start => exact ih hes
    | tick => exact ih hes

theorem rowOf_tick_of_idle {s : State} (hcls : s.cls = .idle) : s.rowOf .tick = .tickIdle := by
  simp [State.rowOf, Event.row, hcls]

/-- A TICK that is not an early TICK.IDLE drives the first planned tick and leaves the others: where nothing is
pending, nothing is to be pushed either. -/
theorem plannedTicks_tick {s t : State} {es : List Event} (h : s.Inv) (ht : tick s = .next t)
    (hidle : s.rowOf .tick = .tickIdle → es.any isPush = false) :
    t.clk = (!s.clk) ∧ t.pinLog = s.pinLog ++ tickEvents s.clk [(s.plannedTicks (.tick :: es)).headD none] ∧
      t.plannedTicks es = (s.plannedTicks (.tick :: es)).tail := by
  obtain ⟨hclk, hlog, hpending⟩ := tick_drives h ht
  cases hs : s.pendingTicks with
  | cons d r =>
    rw [hs] at hlog hpending
    exact ⟨hclk, by simpa [State.plannedTicks, hs] using hlog,
      by simp [State.plannedTicks, pushedEntries, hs, hpending]⟩
  | nil =>
    have hnone := pushedEntries_of_no_push (hidle (rowOf_tick_of_idle (h.pendingTicks_eq_nil_iff.1 hs)))
    rw [plannedTicks_of_no_push hnone, plannedTicks_of_no_push (es := .tick :: es) hnone]
    exact ⟨hclk, hlog, hpending⟩

theorem noEarlyIdle_cons {e : Event} {s t : State} (es : List Event) (ht : doEvent e s = .next t) :
    noEarlyIdle (e :: es) s = true ↔
      (s.rowOf e = .tickIdle → es.any isPush = false) ∧ noEarlyIdle es t = true := by
  simp [noEarlyIdle, ht, imp_iff_not_or]

/-- The trace of a run whose pushes are all stored and whose block does not idle before the last of them: its ticks
drive the planned ticks in order, then nothing. -/
theorem runEvents_drives {es : List Event} {s t : State} (h : s.Inv) (hreset : .reset ∉ es)
    (hst : allStored es s = true) (hidle : noEarlyIdle es s = true) (ht : runEvents es s = .next t) :
    t.pinLog = s.pinLog ++ tickEvents s.clk ((s.plannedTicks es).takeD (es.count .tick) none) ∧
      t.pendingTicks = (s.plannedTicks es).drop (es.count .tick) := by
  induction es generalizing s with
  | nil => cases ht; simp [tickEvents, State.plannedTicks, pushedEntries]
  | cons e es ih =>
    obtain ⟨u, hu, ht⟩ := runEvents_cons_iff.1 ht
    have hrest : .reset ∉ es := fun hmem => hreset (List.mem_cons_of_mem e hmem)
    obtain ⟨hste, hst⟩ := (allStored_cons es hu).1 hst
    obtain ⟨hidlee, hidle⟩ := (noEarlyIdle_cons es hu).1 hidle
    obtain ⟨hlog, hpending⟩ := ih (h.after_doEvent hu) hrest hst hidle ht
    rw [hlog, hpending]
    cases e with
    | reset => exact absurd List.mem_cons_self hreset
    | start =>
      cases hu
      obtain ⟨hclk, hpin, -⟩ := start_pins s
      simp [hclk, hpin, plannedTicks_start]
    | push len value =>
      rw [doEvent_push] at hu
      cases hu
      obtain ⟨hclk, hpin, -⟩ := push_pins len value s
      simp [hclk, hpin, plannedTicks_push es hste]
    | tick =>
      rw [doEvent_tick] at hu
      obtain ⟨hclk, hpin, hplan⟩ := plannedTicks_tick h hu hidlee
      rw [hclk, hpin, hplan, List.count_cons_self, List.append_assoc, ← tickEvents_cons, List.drop_tail]
      exact ⟨rfl, rfl⟩

/-- Settles O41: both traces are what the ticks drive from the reset state, and that depends on the entries pushed and
on the number of ticks alone. -/
theorem independenceLaw : Obligations.IndependenceLaw := by
  intro c inputs es es' t t' s hreset hreset' hpushed hticks hst hst' hidle hidle' ht ht'
  have hinv := State.resetWith_inv c inputs
  obtain ⟨hlog, -⟩ := runEvents_drives hinv hreset hst hidle ht
  obtain ⟨hlog', -⟩ := runEvents_drives hinv hreset' hst' hidle' ht'
  have hplan : s.plannedTicks es = s.plannedTicks es' := by rw [State.plannedTicks, hpushed, State.plannedTicks]
  rw [hlog, hlog', hticks]
  exact congrArg (fun l => _ ++ tickEvents _ (List.takeD _ l none)) hplan

/-! ### Ticks with nothing pushed -/

/-- A TICK is answered from every running state that meets the invariant, and the block runs on (40_tick.md R80). -/
theorem State.Inv.exists_tick {s : State} (h : s.Inv) (hrun : s.run = true) :
    ∃ t, tick s = .next t ∧ t.run = true := by
  cases hcls : s.cls with
  | active => exact ⟨_, tick_active hrun hcls, hrun⟩
  | loadPending =>
    obtain ⟨e, he⟩ := h.exists_entry hcls
    exact ⟨_, tick_load hrun hcls he, hrun⟩
  | idle => exact ⟨_, tick_idle hrun hcls, hrun⟩

/-- Any number of ticks completes (00_scope.md R8). -/
theorem State.Inv.exists_ticks {s : State} (h : s.Inv) (hrun : s.run = true) (n : Nat) :
    ∃ t, runEvents (tickLines n) s = .next t ∧ t.run = true := by
  induction n with
  | zero => exact ⟨s, rfl, hrun⟩
  | succ n ih =>
    obtain ⟨t, ht, htrun⟩ := ih
    obtain ⟨u, hu, hurun⟩ := (h.after_runEvents ht).exists_tick htrun
    exact ⟨u, runEvents_tickLines_succ ht hu, hurun⟩

theorem tickLines_are_ticks (n : Nat) :
    .reset ∉ tickLines n ∧ (tickLines n).any isPush = false ∧ (tickLines n).count .tick = n :=
  ⟨by simp [tickLines], by simp [tickLines, isPush], List.count_replicate_self⟩

/-- A completed run that pushes nothing drops nothing and idles before no push. -/
theorem allStored_and_noEarlyIdle_of_no_push {es : List Event} {s t : State} (hpush : es.any isPush = false)
    (ht : runEvents es s = .next t) : allStored es s = true ∧ noEarlyIdle es s = true := by
  induction es generalizing s with
  | nil => exact ⟨rfl, rfl⟩
  | cons e es ih =>
    obtain ⟨u, hu, ht⟩ := runEvents_cons_iff.1 ht
    obtain ⟨he, hes⟩ := Bool.or_eq_false_iff.1 (List.any_cons.symm.trans hpush)
    obtain ⟨hst, hidle⟩ := ih hes ht
    rw [allStored_cons es hu, noEarlyIdle_cons es hu]
    refine ⟨⟨?_, hst⟩, fun _ => hes, hidle⟩
    cases e with
    | push len value => exact absurd he Bool.noConfusion
    | reset => rfl
    | start => rfl
    | tick => rfl

/-- Ticks alone drive what is pending, as far as they reach, and load what is no longer queued. -/
theorem runEvents_tickLines_drives {s t : State} {n : Nat} (h : s.Inv) (ht : runEvents (tickLines n) s = .next t) :
    t.pinLog = s.pinLog ++ tickEvents s.clk (s.pendingTicks.takeD n none) ∧
      t.pendingTicks = s.pendingTicks.drop n ∧ loadedEntries (tickLines n) s ++ t.queue = s.queue := by
  obtain ⟨hreset, hpush, hcount⟩ := tickLines_are_ticks n
  have hnone := pushedEntries_of_no_push hpush
  obtain ⟨hst, hidle⟩ := allStored_and_noEarlyIdle_of_no_push hpush ht
  obtain ⟨hlog, hpending⟩ := runEvents_drives h hreset hst hidle ht
  have hfifo := loadedEntries_append_queue h hreset hst ht
  rw [plannedTicks_of_no_push hnone, hcount] at hlog hpending
  rw [hnone, List.append_nil] at hfifo
  exact ⟨hlog, hpending, hfifo⟩

/-! ### Counting the ticks to come -/

@[simp] theorem wordTicks_length (v : Value) (p l : Nat) : (wordTicks v p l).length = l - p := by
  simp [wordTicks]

@[simp] theorem entryTicks_length (e : Entry) : (entryTicks e).length = (entryLen e).toNat + 1 := by
  simp [entryTicks]

/-- The ticks to come are as many as R88 counts: `(PW_LEN - PW_POS) + sum (Li + 1)`. -/
theorem State.pendingTicks_length (s : State) :
    s.pendingTicks.length =
      (s.pwLen.toNat - s.pwPos.toNat) + ((s.queue.map fun e => (entryLen e).toNat).map (· + 1)).sum := by
  simp [State.pendingTicks, List.length_flatMap, Function.comp_def]

/-- The data levels that ticks log are the bits they drive. -/
theorem datLevels_tickEvents (c : Bool) (l : List (Option Bool)) :
    datLevels (tickEvents c l) = l.filterMap fun d => d := by
  induction l generalizing c with
  | nil => rfl
  | cons d r ih => cases d <;> simp [tickEvents, ih]

theorem wordTicks_filterMap_length (v : Value) (p l : Nat) :
    ((wordTicks v p l).filterMap fun d => d).length = l - p := by
  simp [wordTicks, List.filterMap_map]

/-- `(PW_LEN - PW_POS) + sum Li` of the ticks to come emit a bit (40_tick.md R88). -/
theorem State.pendingTicks_emits (s : State) :
    (s.pendingTicks.filterMap fun d => d).length =
      (s.pwLen.toNat - s.pwPos.toNat) + (s.queue.map fun e => (entryLen e).toNat).sum := by
  rw [State.pendingTicks, List.filterMap_append, List.length_append, wordTicks_filterMap_length]
  simp [List.filterMap_flatMap, List.length_flatMap, entryTicks, wordTicks_filterMap_length]

/-- The frames of the entries before number `i` are `sum (Lj + 1)` ticks long; then entry `i`'s own frame begins. -/
theorem flatMap_entryTicks_getElem? {q : List Entry} {i k : Nat} {e : Entry} (he : q[i]? = some e)
    (hk : k < (entryTicks e).length) :
    (q.flatMap entryTicks)[(((q.map fun e => (entryLen e).toNat).take i).map (· + 1)).sum + k]? =
      (entryTicks e)[k]? := by
  induction q generalizing i with
  | nil => nomatch he
  | cons f q ih =>
    cases i with
    | zero =>
      cases he
      simpa using List.getElem?_append_left hk
    | succ i =>
      simp only [List.flatMap_cons, List.map_cons, List.take_succ_cons, List.sum_cons]
      rw [Nat.add_assoc, ← entryTicks_length f, List.getElem?_append_right (Nat.le_add_right _ _),
        Nat.add_sub_cancel_left, ih he]

/-- Bit `j` of an entry goes out `j + 1` ticks after its load (30_encoding.md R65). -/
theorem entryTicks_bit {e : Entry} {j : Nat} (hj : j < (entryLen e).toNat) :
    (entryTicks e)[j + 1]? = some (some (decide ((entryValue e).toNat / 2 ^ j % 2 = 1))) := by
  simp [entryTicks, wordTicks, hj, valueBit_eq]

/-- After `n` ticks the block is IDLE exactly if no more than `n` were to come (40_tick.md R88). -/
theorem State.Inv.idle_iff_of_tickLines {s t : State} {n : Nat} (h : s.Inv)
    (ht : runEvents (tickLines n) s = .next t) : t.idle = true ↔ s.pendingTicks.length ≤ n := by
  have hinv := h.after_runEvents ht
  obtain ⟨-, hpending, -⟩ := runEvents_tickLines_drives h ht
  rw [hinv.idle_iff_cls, ← hinv.pendingTicks_eq_nil_iff, hpending, List.drop_eq_nil_iff]

/-- Settles O35: the block is IDLE exactly when no tick is to come, and each tick takes one of the `T` away; what they
drive and load is read off the ticks to come and off the FIFO law. -/
theorem drainingLaw : Obligations.DrainingLaw := by
  intro s h hrun lens T
  have hlength : s.pendingTicks.length = T := s.pendingTicks_length
  refine ⟨h.queue_length, fun n hn => ?_, ?_⟩
  · obtain ⟨t, ht, -⟩ := h.exists_ticks hrun n
    have hbusy : ¬ t.idle = true := by rw [h.idle_iff_of_tickLines ht, hlength]; exact Nat.not_le_of_lt hn
    exact ⟨t, ht, Bool.eq_false_iff.2 hbusy⟩
  · obtain ⟨t, ht, -⟩ := h.exists_ticks hrun T
    have hdone : t.idle = true := (h.idle_iff_of_tickLines ht).2 hlength.le
    obtain ⟨hlog, -, hfifo⟩ := runEvents_tickLines_drives h ht
    rw [List.takeD_eq_take _ hlength.ge, ← hlength, List.take_length] at hlog
    rw [State.queue_of_qCount_eq_zero (State.idle_iff.1 hdone).2, List.append_nil] at hfifo
    refine ⟨t, ht, hdone, hlog, hlength, ?_, hfifo, fun hpos i e he => ?_⟩
    · rw [datLevels_tickEvents, s.pendingTicks_emits]
    · rw [State.pendingTicks_of_not_active (hpos ▸ Nat.lt_irrefl _)]
      intro ti
      have hframe {k : Nat} (hk : k < (entryTicks e).length) :
          (s.queue.flatMap entryTicks)[ti - 1 + k]? = (entryTicks e)[k]? := by
        rw [← flatMap_entryTicks_getElem? he hk, Nat.add_sub_cancel_left]
      refine ⟨hframe (Nat.succ_pos _), fun j hj => ?_⟩
      rw [← entryTicks_bit hj, ← hframe (by simpa using hj)]
      congr 1
      omega

end Sys2Proof.Machine
end

section
/-! The laws of a word on the data line (40_tick.md R86), of the clock line (R87, R89), of what a sampling target sees
(R92) and of the three classes (R90). -/

namespace Sys2Proof.Machine

/-! ### The emission law (40_tick.md R86) -/

/-- `t` is where events with `n` ticks lead from `s` while its pending word goes out from bit 0: `n` bits are sent. -/
structure State.BitsSent (s : State) (n : Nat) (t : State) : Prop where
  run : t.run = true
  pwValue : t.pwValue = s.pwValue
  pwLen : t.pwLen = s.pwLen
  pwPos : t.pwPos.toNat = n
  levels : datLevels t.pinLog = datLevels s.pinLog ++ (List.range n).map (valueBit s.pwValue)
  dat : ∀ k, n = k + 1 → t.dat = valueBit s.pwValue k

theorem State.bitsSent_zero {s : State} (hrun : s.run = true) (hpos : s.pwPos = 0) : s.BitsSent 0 s where
  run := hrun
  pwValue := rfl
  pwLen := rfl
  pwPos := congrArg BitVec.toNat hpos
  levels := (List.append_nil _).symm
  dat := nofun

theorem State.BitsSent.cls_active {s t : State} {n : Nat} (h : s.BitsSent n t) (hn : n < s.pwLen.toNat) :
    t.cls = .active :=
  State.cls_active.2 (by rwa [h.pwPos, h.pwLen])

/-- While bits are left a TICK sends the next one. -/
theorem State.BitsSent.succ {s t : State} {n : Nat} (h : s.BitsSent n t) (hn : n < s.pwLen.toNat) :
    s.BitsSent (n + 1) (emitArm t.toggleClk) := by
  have hbit : t.nextBit = valueBit s.pwValue n := by rw [State.nextBit, h.pwValue, h.pwPos]
  exact {
    run := h.run
    pwValue := h.pwValue
    pwLen := h.pwLen
    pwPos := (pos_succ (State.cls_active.1 (h.cls_active hn))).trans (congrArg (· + 1) h.pwPos)
    levels := by
      calc datLevels (t.pinLog ++ [.clk (!t.clk)] ++ [.dat t.nextBit])
          = datLevels s.pinLog ++ ((List.range n).map (valueBit s.pwValue) ++ [t.nextBit]) := by simp [h.levels]
        _ = datLevels s.pinLog ++ (List.range (n + 1)).map (valueBit s.pwValue) := by
          rw [hbit, List.range_succ, List.map_append, List.map_singleton]
    dat := fun k hk => Nat.succ.inj hk ▸ hbit }

theorem State.BitsSent.start {s t : State} {n : Nat} (h : s.BitsSent n t) : s.BitsSent n (start t) := by
  obtain ⟨-, heq⟩ | ⟨-, heq⟩ := start_cases t <;> rw [heq]
  · exact { h with run := rfl }
  · exact h

theorem State.BitsSent.push {s t : State} {n : Nat} (h : s.BitsSent n t) (len : Len) (value : Value) :
    s.BitsSent n (push len value t) := by
  obtain ⟨-, -, heq⟩ | ⟨-, heq⟩ := push_cases len value t <;> rw [heq]
  · exact { h with }
  · exact h

/-- As long as bits are left for its ticks, a run without a RESET completes and each tick sends one. -/
theorem State.BitsSent.exists_run {es : List Event} {s t : State} {n : Nat} (h : s.BitsSent n t)
    (hreset : .reset ∉ es) (hn : n + es.count .tick ≤ s.pwLen.toNat) :
    ∃ u, runEvents es t = .next u ∧ s.BitsSent (n + es.count .tick) u := by
  induction es generalizing n t with
  | nil => exact ⟨t, rfl, h⟩
  | cons e es ih =>
    have hrest : .reset ∉ es := fun hmem => hreset (List.mem_cons_of_mem e hmem)
    cases e with
    | reset => exact absurd List.mem_cons_self hreset
    | start =>
      rw [runEvents_cons_next es (doEvent_start t)]
      exact ih h.start hrest hn
    | push len value =>
      rw [runEvents_cons_next es (doEvent_push len value t)]
      exact ih (h.push len value) hrest hn
    | tick =>
      rw [List.count_cons_self, Nat.add_comm _ 1, ← Nat.add_assoc] at hn ⊢
      have hleft : n < s.pwLen.toNat := (Nat.le_add_right _ _).trans hn
      rw [runEvents_cons_next es ((doEvent_tick t).trans (tick_active h.run (h.cls_active hleft)))]
      exact ih (h.succ hleft) hrest hn

/-- The word is EXHAUSTED (10_state.md R25) exactly when as many bits are sent as it is long. -/
theorem State.BitsSent.exhausted_iff {s t : State} {n : Nat} (h : s.BitsSent n t) :
    t.exhausted = true ↔ n = s.pwLen.toNat := by
  rw [State.exhausted_iff, ← BitVec.toNat_inj, h.pwPos, h.pwLen]

/-- Settles O33, by induction on the events: a tick sends a bit, another event leaves the word as it is. -/
theorem emissionLaw : Obligations.EmissionLaw := by
  intro s es hrun hpos hreset hticks
  obtain ⟨t, ht, hsent⟩ := (State.bitsSent_zero hrun hpos).exists_run hreset (by rwa [Nat.zero_add])
  rw [Nat.zero_add] at hsent
  simp only [← valueBit_eq]
  exact ⟨t, ht, hsent.levels, hsent.dat, hsent.pwPos, hsent.pwValue, hsent.pwLen, hsent.exhausted_iff⟩

/-! ### The clock line (40_tick.md R87, R89) -/

/-- The level the clock line has after `n` ticks, toggled once more (40_tick.md R81). -/
theorem not_xor_odd (c : Bool) (n : Nat) : (!(c ^^ decide (n % 2 = 1))) = (c ^^ decide (n % 2 = 0)) := by
  rcases Nat.mod_two_eq_zero_or_one n with h | h <;> simp [h]

theorem odd_succ (n : Nat) : decide ((n + 1) % 2 = 1) = decide (n % 2 = 0) :=
  decide_eq_decide.2 (by omega)

/-- `t` is where events with `n` ticks lead from `s`: the clock line has toggled `n` times. -/
structure State.ClockToggled (s : State) (n : Nat) (t : State) : Prop where
  clk : t.clk = (s.clk ^^ decide (n % 2 = 1))
  levels : clkLevels t.pinLog =
    clkLevels s.pinLog ++ (List.range n).map (fun k => s.clk ^^ decide (k % 2 = 0))

/-- Every arm of a TICK toggles the clock line, and logs it, once (40_tick.md R81). -/
theorem tick_clk {s t : State} (ht : tick s = .next t) :
    t.clk = (!s.clk) ∧ clkLevels t.pinLog = clkLevels s.pinLog ++ [!s.clk] := by
  obtain ⟨-, ⟨-, rfl⟩ | ⟨-, e, -, rfl⟩ | ⟨-, rfl⟩⟩ := tick_next ht
  · exact ⟨rfl, by simp [emitArm]⟩
  · exact ⟨rfl, clkLevels_append ..⟩
  · exact ⟨rfl, clkLevels_append ..⟩

theorem State.ClockToggled.tick {s t u : State} {n : Nat} (h : s.ClockToggled n t) (hu : tick t = .next u) :
    s.ClockToggled (n + 1) u := by
  obtain ⟨hclk, hlevels⟩ := tick_clk hu
  have hlevel : (!t.clk) = (s.clk ^^ decide (n % 2 = 0)) := by rw [h.clk, not_xor_odd]
  exact {
    clk := by rw [hclk, hlevel, odd_succ]
    levels := by rw [hlevels, h.levels, hlevel, List.range_succ, List.map_append, List.append_assoc]; rfl }

theorem State.ClockToggled.run {es : List Event} {s t u : State} {n : Nat} (h : s.ClockToggled n t)
    (hreset : .reset ∉ es) (hu : runEvents es t = .next u) : s.ClockToggled (n + es.count .tick) u := by
  induction es generalizing n t with
  | nil => cases hu; exact h
  | cons e es ih =>
    have hrest : .reset ∉ es := fun hmem => hreset (List.mem_cons_of_mem e hmem)
    obtain ⟨v, hv, hes⟩ := runEvents_cons_iff.1 hu
    cases e with
    | reset => exact absurd List.mem_cons_self hreset
    | start =>
      cases hv
      obtain ⟨hclk, hlog, -⟩ := start_pins t
      exact ih ⟨hclk.trans h.clk, (congrArg _ hlog).trans h.levels⟩ hrest hes
    | push len value =>
      rw [doEvent_push] at hv
      cases hv
      obtain ⟨hclk, hlog, -⟩ := push_pins len value t
      exact ih ⟨hclk.trans h.clk, (congrArg _ hlog).trans h.levels⟩ hrest hes
    | tick =>
      rw [doEvent_tick] at hv
      rw [List.count_cons_self, Nat.add_comm _ 1, ← Nat.add_assoc]
      exact ih (h.tick hv) hrest hes

/-- Settles O36, by induction on the events: a TICK toggles the clock line once, another event leaves it. -/
theorem clockParityLaw : Obligations.ClockParityLaw := by
  intro s t es hreset ht
  have hstart : s.ClockToggled 0 s := ⟨by simp, by simp⟩
  have htoggled := hstart.run hreset ht
  rw [Nat.zero_add] at htoggled
  exact ⟨htoggled.clk, htoggled.levels⟩

theorem State.cls_of_idle {s : State} (h : s.idle = true) : s.cls = .idle := by
  obtain ⟨hpos, hcount⟩ := State.idle_iff.1 h
  exact State.cls_idle.2 ⟨hpos ▸ Nat.lt_irrefl _, hcount⟩

/-- Where `n` ticks lead from an idle state: the clock line has toggled `n` times, the rest is as it was. -/
def State.afterIdleTicks (s : State) (n : Nat) : State :=
  { s with
    clk := s.clk ^^ decide (n % 2 = 1)
    pinLog := s.pinLog ++ (List.range n).map (fun k => .clk (s.clk ^^ decide (k % 2 = 0))) }

theorem afterIdleTicks_zero (s : State) : s.afterIdleTicks 0 = s := by
  simp [State.afterIdleTicks]

theorem afterIdleTicks_succ (s : State) (n : Nat) : s.afterIdleTicks (n + 1) = (s.afterIdleTicks n).toggleClk := by
  simp only [State.afterIdleTicks, State.toggleClk, not_xor_odd, odd_succ, List.range_succ, List.map_append,
    List.map_singleton, List.append_assoc]

theorem runEvents_tickLines_of_idle {s : State} (hrun : s.run = true) (hidle : s.idle = true) (n : Nat) :
    runEvents (tickLines n) s = .next (s.afterIdleTicks n) := by
  induction n with
  | zero => rw [afterIdleTicks_zero]; rfl
  | succ n ih =>
    have hcls : (s.afterIdleTicks n).cls = .idle := State.cls_of_idle hidle
    rw [afterIdleTicks_succ]
    exact runEvents_tickLines_succ ih (tick_idle hrun hcls)

/-- RESET, START and TICK leave an idle block idle. -/
theorem idle_of_doEvent {s t : State} {e : Event} (hidle : s.idle = true) (hpush : isPush e = false)
    (ht : doEvent e s = .next t) : t.idle = true := by
  cases e with
  | reset => cases ht; exact State.resetWith_idle s.cfg s.inputs
  | start =>
    cases ht
    obtain ⟨-, heq⟩ | ⟨-, heq⟩ := start_cases s <;> rw [heq] <;> exact hidle
  | tick =>
    rw [doEvent_tick] at ht
    have hcls := State.cls_of_idle hidle
    obtain ⟨-, ⟨hactive, -⟩ | ⟨hload, -⟩ | ⟨-, rfl⟩⟩ := tick_next ht
    · simp [hcls] at hactive
    · simp [hcls] at hload
    · exact hidle
  | push len value => exact absurd hpush Bool.noConfusion

/-- Settles O34, the first part by induction on the ticks. -/
theorem idleLaw : Obligations.IdleLaw := by
  refine ⟨fun s n hrun hidle => runEvents_tickLines_of_idle hrun hidle n, fun s t e hidle ht hbusy => ?_⟩
  by_contra hpush
  have hstill := idle_of_doEvent hidle (Bool.not_eq_true _ ▸ hpush) ht
  exact Bool.noConfusion (hstill.symm.trans hbusy)

/-! ### What a sampling target sees (40_tick.md R92) -/

/-- Where every bit is driven after its own transition, each transition samples the bit before it; the last bit is seen
at the transition that follows. -/
theorem edgeSamples_bits (d x : Bool) (level bit : Nat → Bool) (ks : List Nat) :
    (edgeSamples d ((ks.flatMap fun k => [.clk (level k), .dat (bit k)]) ++ [.clk x])).map Prod.snd =
      d :: ks.map bit := by
  induction ks generalizing d with
  | nil => rfl
  | cons k ks ih => simp [edgeSamples, ih]

theorem edgeSamples_frameEvents (d c x : Bool) (e : Entry) (j : Nat) :
    (edgeSamples d (frameEvents c e j ++ [.clk x])).map Prod.snd =
      d :: d :: (List.range j).map (fun k => decide ((entryValue e).toNat / 2 ^ k % 2 = 1)) :=
  congrArg (d :: ·) (edgeSamples_bits d x _ _ (List.range j))

/-- A TICK that meets no ACTIVE state toggles the clock line and drives no data. -/
theorem tick_pinLog_of_not_active {s t : State} (hcls : s.cls ≠ .active) (ht : tick s = .next t) :
    t.pinLog = s.pinLog ++ [.clk (!s.clk)] := by
  obtain ⟨-, ⟨hactive, -⟩ | ⟨-, e, -, rfl⟩ | ⟨-, rfl⟩⟩ := tick_next ht
  · exact absurd hactive hcls
  · rfl
  · rfl

/-- After its last bit the frame's word is exhausted. -/
theorem State.FrameSent.cls_ne_active {s t : State} {e : Entry} (h : s.FrameSent e (entryLen e).toNat t) :
    t.cls ≠ .active := by
  rw [Ne, State.cls_active, h.pwPos, h.pwLen]
  exact Nat.lt_irrefl _

/-- Settles O40: the frame, then the tick after it, which loads or idles and so drives no data itself. -/
theorem samplingLaw : Obligations.SamplingLaw := by
  intro s e h hrun hcls he
  obtain ⟨t, ht, hsent⟩ := exists_frameSent hrun hcls he (Nat.le_refl _)
  obtain ⟨u, hu, -⟩ := (h.after_runEvents ht).exists_tick hsent.run
  have hlog : u.pinLog = s.pinLog ++ (frameEvents s.clk e (entryLen e).toNat ++ [.clk (!t.clk)]) := by
    rw [tick_pinLog_of_not_active hsent.cls_ne_active hu, hsent.pinLog, List.append_assoc]
  exact ⟨u, _, runEvents_tickLines_succ ht hu, hlog, edgeSamples_frameEvents ..⟩

/-! ### The classes from event to event (40_tick.md R90) -/

/-- An emit moves the position by one; the class after it depends on whether bits are left, and then on the queue. -/
theorem cls_after_emit {s : State} (hcls : s.cls = .active) :
    let t := emitArm s.toggleClk
    (s.pwPos.toNat + 1 < s.pwLen.toNat → t.cls = .active) ∧
      (s.pwPos.toNat + 1 = s.pwLen.toNat → 0 < s.qCount → t.cls = .loadPending) ∧
      (s.pwPos.toNat + 1 = s.pwLen.toNat → s.qCount = 0 → t.cls = .idle) := by
  intro t
  have hpos : t.pwPos.toNat = s.pwPos.toNat + 1 := pos_succ (State.cls_active.1 hcls)
  rw [State.cls_active, State.cls_loadPending, State.cls_idle, hpos]
  exact ⟨id, fun heq hcount => ⟨heq.not_lt, hcount⟩, fun heq hcount => ⟨heq.not_lt, hcount⟩⟩

/-- After a load the class depends on whether the word loaded has bits, and then on what is left in the queue. -/
theorem cls_after_load (s : State) (e : Entry) :
    let t := (s.toggleClk.loadPendingWord e).popQueue
    (0 < t.pwLen.toNat → t.cls = .active) ∧
      (t.pwLen.toNat = 0 → 1 < s.qCount → t.cls = .loadPending) ∧
      (t.pwLen.toNat = 0 → s.qCount = 1 → t.cls = .idle) := by
  intro t
  have hpos : t.pwPos.toNat = 0 := rfl
  have hcount : t.qCount = s.qCount - 1 := rfl
  rw [State.cls_active, State.cls_loadPending, State.cls_idle, hpos, hcount]
  omega

/-- A push leaves the pending word, and the class of every state whose queue it does not make non-empty. -/
theorem cls_after_push (len : Len) (value : Value) (s : State) :
    (s.cls = .idle → len.toNat ≤ 32 → (push len value s).cls = .loadPending) ∧
      (s.cls = .idle → 32 < len.toNat → (push len value s).cls = .idle) ∧
      (s.cls = .loadPending → (push len value s).cls = .loadPending) ∧
      (s.cls = .active → (push len value s).cls = .active) := by
  have hdepth := s.cfg.qdepth_pos
  simp only [State.cls_active, State.cls_loadPending, State.cls_idle]
  obtain ⟨-, hlen, heq⟩ | ⟨hdrop, heq⟩ := push_cases len value s <;> rw [heq]
  · simp only [State.storeEntry_pwPos, State.storeEntry_pwLen, State.storeEntry_qCount]
    omega
  · omega

/-- Settles O13, event by event. -/
theorem classTransitionsFollowTheTable : Obligations.ClassTransitionsFollowTheTable := by
  intro s t _
  refine ⟨fun ht => ?_, fun len value ht => ?_, fun ht => ?_, fun ht => ?_⟩
  · rw [doEvent_tick] at ht
    obtain ⟨-, ⟨hcls, rfl⟩ | ⟨hcls, e, -, rfl⟩ | ⟨hcls, rfl⟩⟩ := tick_next ht
    · simpa [hcls] using cls_after_emit hcls
    · simpa [hcls] using cls_after_load s e
    · have hstay : s.toggleClk.cls = .idle := hcls
      simp [hcls, hstay]
  · rw [doEvent_push] at ht
    cases ht
    exact cls_after_push len value s
  · cases ht
    exact State.cls_of_idle (State.resetWith_idle s.cfg s.inputs)
  · cases ht
    obtain ⟨-, heq⟩ | ⟨-, heq⟩ := start_cases s <;> rw [heq]
    · rfl

end Sys2Proof.Machine
end

section
/-! The statements of 42_control.md: what START does to a stopped block and to a running one (R110). -/

namespace Sys2Proof.Machine

theorem exec_start (s : State) : exec .start s = .next (start s) := exec_event .start s

theorem start_of_stopped {s : State} (h : s.run = false) : start s = s.startRun := by
  obtain ⟨-, heq⟩ | ⟨hrun, -⟩ := start_cases s
  · exact heq
  · exact absurd (h.symm.trans hrun) Bool.false_ne_true

theorem start_of_running {s : State} (h : s.run = true) : start s = s := by
  obtain ⟨hstopped, -⟩ | ⟨-, heq⟩ := start_cases s
  · exact absurd (hstopped.symm.trans h) Bool.false_ne_true
  · exact heq

/-- Settles O4: the row START always answers, and `RUN` decides what; `State.startRun` is the record that names `RUN` and
`DIV` alone. -/
theorem startSetsRunOnce : Obligations.StartSetsRunOnce := by
  intro s
  rw [exec_start]
  refine ⟨fun hstopped => ?_, fun hrun => ?_⟩
  · rw [start_of_stopped hstopped, State.startRun]
  · rw [start_of_running hrun]

end Sys2Proof.Machine
end

section
/-! The order of a cycle's events (60_exceptions.md R123): `rst` alone, or START, TICK, PUSH, each on the state the one
before left. -/

namespace Sys2Proof.Machine

/-- A run that may begin with an event goes on from the state that event leaves, or from where it stands. -/
theorem runEvents_optional_append {present : Bool} {e : Event} {es : List Event} {s t : State} :
    runEvents ((if present then [e] else []) ++ es) s = .next t ↔
      ∃ a, (if present then doEvent e s = .next a else a = s) ∧ runEvents es a = .next t := by
  cases present with
  | false => simp
  | true => simp [runEvents_cons_iff]

theorem runEvents_optional {present : Bool} {e : Event} {s t : State} :
    runEvents (if present then [e] else []) s = .next t ↔ if present then doEvent e s = .next t else t = s := by
  cases present with
  | false => simp [eq_comm]
  | true => simp [runEvents_cons_iff]

/-- In a cycle with `rst` = 1 the one event is RESET, and it keeps the build and the samples to come. -/
theorem step_of_rst {s : State} (hrst : s.ports.rst = true) :
    step s = .next (State.resetWith s.cfg s.inputs.tail) := by
  have hevents : s.cycleEvents = [.reset] := by rw [State.cycleEvents_eq, if_pos hrst]
  rw [step_eq, hevents, runEvents_cons_next [] (doEvent_reset s.advance), runEvents_nil, reset, State.advance_cfg,
    State.advance_inputs]

/-- In a cycle with `rst` = 0 the other three events that occur lead on from one another. -/
theorem step_next_iff {s t : State} (hrst : s.ports.rst = false) :
    step s = .next t ↔
      ∃ a b,
        (if s.ports.start then doEvent .start s.advance = .next a else a = s.advance) ∧
        (if s.strobe then doEvent .tick a = .next b else b = a) ∧
        (if s.ports.pushValid then doEvent (.push s.ports.pushLen s.ports.pushValue) b = .next t else t = b) := by
  have hrst' : ¬ s.ports.rst = true := by simp [hrst]
  rw [step_eq, State.cycleEvents_eq, if_neg hrst', List.append_assoc]
  simp only [runEvents_optional_append, runEvents_optional, exists_and_left]

/-- The strobe rises only while `RUN` = 1 (R128), where START changes nothing (42_control.md R110). -/
theorem start_advance_of_strobe {s : State} (hstrobe : s.strobe = true) : start s.advance = s.advance := by
  obtain ⟨hrun, -⟩ := (Bool.and_eq_true _ _).mp hstrobe
  exact start_of_running (s.advance_run.trans hrun)

/-- Settles O25: an event is the row its state gives it, so the chain of events is the chain of rows. -/
theorem eventsOfACycleHappenInOrder : Obligations.EventsOfACycleHappenInOrder := by
  intro s
  refine ⟨step_of_rst, fun hrst t => step_next_iff hrst, fun hstrobe => ?_⟩
  rw [exec_start, start_advance_of_strobe hstrobe]

end Sys2Proof.Machine
end

section
/-! The tick generator over many cycles (60_exceptions.md R128): the block ticks exactly as often as the divider
strikes. -/

namespace Sys2Proof.Machine

/-! ### The divider -/

/-- How often the divider of a running state strikes in the next `n` cycles without a reset: first in the cycle that
finds `DIV` = 0, then every `TICK_DIV` cycles. `State.Inv.strikes_succ` ties the count to the strobe of each cycle. -/
def State.strikes (s : State) (n : Nat) : Nat := (n + (tickDiv s.cfg - 1 - s.div)) / tickDiv s.cfg

theorem State.strobe_of_stopped {s : State} (hrun : s.run = false) : s.strobe = false := by
  rw [State.strobe, hrun, Bool.false_and]

theorem State.strobe_of_running {s : State} (hrun : s.run = true) : s.strobe = decide (s.div = 0) := by
  rw [State.strobe, hrun, Bool.true_and, beq_eq_decide]

theorem State.advance_div_of_running {s : State} (hrun : s.run = true) (hrst : s.ports.rst = false) :
    s.advance.div = if s.div = 0 then tickDiv s.cfg - 1 else s.div - 1 := by
  simp [State.advance, hrst, hrun]

/-- A divider just loaded strikes first at the end of a whole period. -/
theorem State.strikes_of_loaded {s : State} (hdiv : s.div = tickDiv s.cfg - 1) (n : Nat) :
    s.strikes n = n / tickDiv s.cfg := by
  rw [State.strikes, hdiv, Nat.sub_self, Nat.add_zero]

/-- The strikes of a cycle and of the `n` cycles after it. -/
theorem State.Inv.strikes_succ {s : State} (h : s.Inv) (hrun : s.run = true) (hrst : s.ports.rst = false) (n : Nat) :
    s.strikes (n + 1) = s.strobe.toNat + s.advance.strikes n := by
  have hlt := h.div_lt
  rw [State.strobe_of_running hrun]
  by_cases hdiv : s.div = 0
  · have hloaded : s.advance.div = tickDiv s.advance.cfg - 1 := by
      rw [State.advance_div_of_running hrun hrst, if_pos hdiv, State.advance_cfg]
    have hperiod : n + 1 + (tickDiv s.cfg - 1 - s.div) = n + tickDiv s.cfg := by omega
    rw [State.strikes_of_loaded hloaded, State.strikes, hperiod, Nat.add_div_right n (by omega)]
    simp [hdiv, Nat.add_comm]
  · have hphase : n + 1 + (tickDiv s.cfg - 1 - s.div) = n + (tickDiv s.cfg - 1 - (s.div - 1)) := by omega
    simp [State.strikes, State.advance_div_of_running hrun hrst, hdiv, hphase]

theorem State.Inv.after_countDiv {s : State} (h : s.Inv) : s.countDiv.Inv :=
  have hlt := h.div_lt
  { h with
    div_lt := by
      rw [State.countDiv_div, State.countDiv_cfg]
      split
      · split <;> omega
      · exact hlt }

theorem State.Inv.after_dropSample {s : State} (h : s.Inv) : s.dropSample.Inv := { h with }

theorem State.Inv.after_advance {s : State} (h : s.Inv) : s.advance.Inv := by
  unfold State.advance
  split
  · exact h.after_dropSample
  · exact h.after_countDiv.after_dropSample

/-! ### The events of a cycle leave the tick generator alone -/

/-- `t` is where events with `n` ticks lead from a running `s`: each tick has logged one level of the clock line, and
what the coming cycles depend on is as it was. -/
structure State.Ticked (s : State) (n : Nat) (t : State) : Prop where
  inv : t.Inv
  cfg : t.cfg = s.cfg
  run : t.run = true
  div : t.div = s.div
  inputs : t.inputs = s.inputs
  edges : (clkLevels t.pinLog).length = (clkLevels s.pinLog).length + n

theorem State.Inv.ticked_zero {s : State} (h : s.Inv) (hrun : s.run = true) : s.Ticked 0 s :=
  ⟨h, rfl, hrun, rfl, rfl, rfl⟩

/-- No arm of a TICK writes the build, the divider or the samples to come. -/
theorem tick_frame {s t : State} (ht : tick s = .next t) : t.cfg = s.cfg ∧ t.div = s.div ∧ t.inputs = s.inputs := by
  obtain ⟨-, ⟨-, rfl⟩ | ⟨-, e, -, rfl⟩ | ⟨-, rfl⟩⟩ := tick_next ht
  · exact ⟨rfl, rfl, rfl⟩
  · exact ⟨rfl, rfl, rfl⟩
  · exact ⟨rfl, rfl, rfl⟩

theorem State.Inv.exists_ticked {s : State} (h : s.Inv) (hrun : s.run = true) :
    ∃ t, tick s = .next t ∧ s.Ticked 1 t := by
  obtain ⟨t, ht, htrun⟩ := h.exists_tick hrun
  obtain ⟨hcfg, hdiv, hinputs⟩ := tick_frame ht
  obtain ⟨-, hlevels⟩ := tick_clk ht
  have hedges : (clkLevels t.pinLog).length = (clkLevels s.pinLog).length + 1 := by
    rw [hlevels, List.length_append, List.length_singleton]
  exact ⟨t, ht, h.after_tick ht, hcfg, htrun, hdiv, hinputs, hedges⟩

theorem State.Ticked.push {s t : State} {n : Nat} (h : s.Ticked n t) (len : Len) (value : Value) :
    s.Ticked n (push len value t) := by
  have hinv := h.inv.after_push len value
  obtain ⟨-, -, heq⟩ | ⟨-, heq⟩ := push_cases len value t <;> rw [heq] at hinv ⊢
  · exact { h with inv := hinv }
  · exact h

theorem State.Ticked.strikes {s t : State} {n : Nat} (h : s.Ticked n t) (m : Nat) : t.strikes m = s.strikes m := by
  rw [State.strikes, h.cfg, h.div, State.strikes]

/-! ### Cycles without a reset -/

/-- Where START leads to a running state that meets the invariant, the cycle completes and ticks exactly if the strobe
rises. -/
theorem exists_step_ticked {s a : State} (hrst : s.ports.rst = false)
    (hstart : (if s.ports.start then start s.advance else s.advance) = a) (h : a.Inv) (hrun : a.run = true) :
    ∃ t, step s = .next t ∧ a.Ticked s.strobe.toNat t := by
  have hstarted : if s.ports.start then doEvent .start s.advance = .next a else a = s.advance := by
    rw [← hstart]
    split
    · exact doEvent_start s.advance
    · rfl
  obtain ⟨b, htick, hb⟩ : ∃ b, (if s.strobe then doEvent .tick a = .next b else b = a) ∧
      a.Ticked s.strobe.toNat b := by
    cases s.strobe with
    | false => exact ⟨a, rfl, h.ticked_zero hrun⟩
    | true => simpa using h.exists_ticked hrun
  obtain ⟨t, hpush, ht⟩ : ∃ t, (if s.ports.pushValid then
      doEvent (.push s.ports.pushLen s.ports.pushValue) b = .next t else t = b) ∧ a.Ticked s.strobe.toNat t := by
    cases s.ports.pushValid with
    | false => exact ⟨b, rfl, hb⟩
    | true => exact ⟨_, doEvent_push _ _ b, hb.push _ _⟩
  exact ⟨t, (step_next_iff hrst).2 ⟨a, b, hstarted, htick, hpush⟩, ht⟩

/-- A cycle of a running block: a START in it changes nothing. -/
theorem State.Inv.exists_step_of_running {s : State} (h : s.Inv) (hrun : s.run = true) (hrst : s.ports.rst = false) :
    ∃ t, step s = .next t ∧ s.advance.Ticked s.strobe.toNat t := by
  have hrun' : s.advance.run = true := s.advance_run.trans hrun
  exact exists_step_ticked hrst (by rw [start_of_running hrun', ite_self]) h.after_advance hrun'

/-- The cycle in which a stopped block starts: the divider is loaded and nothing ticks. -/
theorem State.Inv.exists_step_of_starting {s : State} (h : s.Inv) (hrun : s.run = false)
    (hstart : s.ports.start = true) (hrst : s.ports.rst = false) :
    ∃ t, step s = .next t ∧ s.advance.startRun.Ticked 0 t := by
  have hrun' : s.advance.run = false := s.advance_run.trans hrun
  have hstep := exists_step_ticked hrst (by rw [if_pos hstart, start_of_stopped hrun'])
    h.after_advance.after_startRun rfl
  rwa [State.strobe_of_stopped hrun] at hstep

/-- Past the end of the list the ports are quiet. -/
theorem State.ports_rst_of_inputs {s : State} (hquiet : ∀ p ∈ s.inputs, p.rst = false) : s.ports.rst = false := by
  unfold State.ports
  cases hinputs : s.inputs with
  | nil => rfl
  | cons p ps => exact hquiet p (by simp [hinputs])

/-- A cycle without a reset is followed by samples of the same list, so by none with `rst` = 1 either. -/
theorem State.Ticked.quiet_tail {s a t : State} {n : Nat} (h : a.Ticked n t) (hinputs : a.inputs = s.inputs.tail)
    (hquiet : ∀ p ∈ s.inputs, p.rst = false) : ∀ p ∈ t.inputs, p.rst = false := by
  rw [h.inputs, hinputs]
  exact fun p hp => hquiet p (List.mem_of_mem_tail hp)

/-- By induction on the cycles: each logs a level of the clock line exactly if the divider strikes in it. -/
theorem State.Inv.exists_run_of_running {s : State} (h : s.Inv) (hrun : s.run = true)
    (hquiet : ∀ p ∈ s.inputs, p.rst = false) (n : Nat) :
    ∃ t, Sys2Proof.core.run n s = .next t ∧
      (clkLevels t.pinLog).length = (clkLevels s.pinLog).length + s.strikes n := by
  induction n generalizing s with
  | zero =>
    have hnone : s.strikes 0 = 0 := Nat.div_eq_of_lt (by have := h.div_lt; omega)
    exact ⟨s, core_run_zero s, by rw [hnone, Nat.add_zero]⟩
  | succ n ih =>
    have hrst := State.ports_rst_of_inputs hquiet
    obtain ⟨u, hu, hticked⟩ := h.exists_step_of_running hrun hrst
    obtain ⟨t, ht, hedges⟩ := ih hticked.inv hticked.run (hticked.quiet_tail s.advance_inputs hquiet)
    refine ⟨t, (core_run_succ n hu).trans ht, ?_⟩
    rw [hedges, hticked.edges, hticked.strikes, h.strikes_succ hrun hrst, State.advance_pinLog, Nat.add_assoc]

/-- Settles O43: a running block ticks with its divider's strikes, and the START cycle loads the divider for the cycles
after it. -/
theorem ticksComeOncePerPeriod : Obligations.TicksComeOncePerPeriod := by
  refine ⟨fun s n h hrun hquiet => h.exists_run_of_running hrun hquiet n, fun s n h hrun hstart hquiet => ?_⟩
  obtain ⟨u, hu, hticked⟩ := h.exists_step_of_starting hrun hstart (State.ports_rst_of_inputs hquiet)
  have hrest := hticked.quiet_tail s.advance_inputs hquiet
  obtain ⟨t, ht, hedges⟩ := hticked.inv.exists_run_of_running hticked.run hrest n
  have hstrikes : u.strikes n = n / tickDiv s.cfg := by
    rw [hticked.strikes, State.strikes_of_loaded rfl, State.startRun_cfg, State.advance_cfg]
  refine ⟨t, (core_run_succ n hu).trans ht, ?_⟩
  rw [hedges, hticked.edges, hstrikes, State.startRun_pinLog, State.advance_pinLog, Nat.add_zero]

end Sys2Proof.Machine
end

section
/-! Decoding a cycle's word (30_encoding.md R61 to R67): the layout read back, the events by their bits, the rows by
the state. -/

namespace Sys2Proof

/-! ### The events of a vector, bit by bit (30_encoding.md R66) -/

/-- An entry is given by its number (30_encoding.md R69). -/
theorem Entry.toNat_eq_iff {e : Entry} {len : Len} {value : Value} :
    e.toNat = len.toNat * 2 ^ 32 + value.toNat ↔ e = packEntry len value := by
  rw [← packEntry_toNat, BitVec.toNat_inj]

/-- An entry is its two fields (30_encoding.md R62). -/
theorem Entry.eq_packEntry_iff {e : Entry} {len : Len} {value : Value} :
    e = packEntry len value ↔ entryLen e = len ∧ entryValue e = value := by
  constructor
  · rintro rfl
    exact ⟨entryLen_packEntry len value, entryValue_packEntry len value⟩
  · rintro ⟨rfl, rfl⟩
    exact (packEntry_fields e).symm

section

variable (rst start pushValid tick : Bool) (entry : Entry)

/-- The events of a vector written by its bits. -/
theorem decodeCycle_packVector :
    decodeCycle (packVector rst start pushValid tick) entry =
      if rst then [.reset]
      else (if start then [.start] else []) ++ (if tick then [.tick] else []) ++
        (if pushValid then [.push (entryLen entry) (entryValue entry)] else []) := by
  simp only [decodeCycle, packVector_rst, packVector_start, packVector_push, packVector_tick]

theorem reset_mem_decodeCycle :
    .reset ∈ decodeCycle (packVector rst start pushValid tick) entry ↔ rst = true := by
  rw [decodeCycle_packVector]
  cases rst <;> simp

theorem start_mem_decodeCycle :
    .start ∈ decodeCycle (packVector rst start pushValid tick) entry ↔ rst = false ∧ start = true := by
  rw [decodeCycle_packVector]
  cases rst <;> simp

theorem tick_mem_decodeCycle :
    .tick ∈ decodeCycle (packVector rst start pushValid tick) entry ↔ rst = false ∧ tick = true := by
  rw [decodeCycle_packVector]
  cases rst <;> simp

/-- A push carries the operand's two fields (30_encoding.md R62). -/
theorem push_mem_decodeCycle (len : Len) (value : Value) :
    .push len value ∈ decodeCycle (packVector rst start pushValid tick) entry ↔
      rst = false ∧ pushValid = true ∧ entry = packEntry len value := by
  rw [decodeCycle_packVector, Entry.eq_packEntry_iff]
  cases rst <;> simp [eq_comm]

/-- RESET stands alone; the others stand in the order START, TICK, PUSH (60_exceptions.md R123). -/
theorem decodeCycle_pairwise :
    (decodeCycle (packVector rst start pushValid tick) entry).Pairwise
      fun a b => (a = .start ∧ b ≠ .start) ∨ (a = .tick ∧ Machine.isPush b = true) := by
  rw [decodeCycle_packVector]
  cases rst with
  | true => exact List.pairwise_singleton _ _
  | false => cases start <;> cases tick <;> cases pushValid <;> simp [Machine.isPush]

end

/-- Settles O22, clause by clause; the operand's number says what its two fields are. -/
theorem cycleEventsAreTheVectorsBits : Obligations.CycleEventsAreTheVectorsBits := by
  intro rst start pushValid tick entry es
  refine ⟨reset_mem_decodeCycle .., start_mem_decodeCycle .., tick_mem_decodeCycle .., fun len value => ?_,
    decodeCycle_pairwise ..⟩
  rw [push_mem_decodeCycle, Entry.toNat_eq_iff]

/-! ### The layout of a cycle's word (log entry 4) -/

/-- The word with a vector in its low bits and an entry from bit 8 on splits into the two. -/
theorem splitWord_layout (ev : EventVector) (entry : Entry) :
    splitWord (ev.toNat + entry.toNat * 2 ^ 8) = .ok (ev, entry) := by
  have hev := ev.isLt
  have hentry := entry.isLt
  have hin : ¬ (ev.toNat + entry.toNat * 2 ^ 8) / 2 ^ 46 ≠ 0 := by omega
  have hgap : ¬ (ev.toNat + entry.toNat * 2 ^ 8) / 2 ^ 4 % 2 ^ 4 ≠ 0 := by omega
  have hlow : BitVec.ofNat 4 (ev.toNat + entry.toNat * 2 ^ 8) = ev :=
    BitVec.eq_of_toNat_eq (by rw [BitVec.toNat_ofNat]; omega)
  have hhigh : BitVec.ofNat 38 ((ev.toNat + entry.toNat * 2 ^ 8) / 2 ^ 8) = entry :=
    BitVec.eq_of_toNat_eq (by rw [BitVec.toNat_ofNat]; omega)
  rw [splitWord, if_neg hin, if_neg hgap, hlow, hhigh]

theorem splitWord_encode (i : Instr) : splitWord (encode i) = .ok (i.event.vector, i.event.entry) :=
  splitWord_layout _ _

/-- An encoded word is 46 bits long, so it is itself on a bus of 48. -/
theorem encode_mod (i : Instr) : encode i % 2 ^ 48 = encode i := by
  have hev := i.event.vector.isLt
  have hentry := i.event.entry.isLt
  exact Nat.mod_eq_of_lt (by unfold encode; omega)

/-- What `decodeRow` reads: the row of the first of the cycle's events. -/
theorem decodeRow_eq_ok_iff {cls : StateClass} {full : Bool} {w : Nat} {i : Instr} :
    decodeRow cls full w = .ok i ↔
      ∃ ev entry e es, splitWord w = .ok (ev, entry) ∧ decodeCycle ev entry = e :: es ∧ e.row cls full = i := by
  unfold decodeRow
  cases splitWord w with
  | error r => simp
  | ok p =>
    obtain ⟨ev, entry⟩ := p
    cases hcycle : decodeCycle ev entry with
    | nil => simp [hcycle]
    | cons e es => simp [hcycle]

/-- An encoded row decodes to the row that the context gives its event (30_encoding.md R66). -/
theorem decodeRow_encode (cls : StateClass) (full : Bool) (i : Instr) :
    decodeRow cls full (encode i) = .ok (i.event.row cls full) :=
  decodeRow_eq_ok_iff.2 ⟨_, _, _, _, splitWord_encode i, decodeCycle_event i.event, rfl⟩

/-! ### The row of a push, by its length and the queue (opcode_table.json) -/

theorem Event.row_push_short (cls : StateClass) {len : Len} (value : Value) (h : len.toNat ≤ 31) :
    (Event.push len value).row cls false = .push len value := by
  have hlegal : ¬ 32 < len.toNat := by omega
  have hshort : ¬ len.toNat = 32 := by omega
  simp [Event.row, hlegal, hshort]

theorem Event.row_push_full (cls : StateClass) {len : Len} (value : Value) (h : len.toNat ≤ 32) :
    (Event.push len value).row cls true = .pushFull len value := by
  simp [Event.row, Nat.not_lt.2 h]

theorem Event.row_push_reserved (cls : StateClass) (full : Bool) {len : Len} (value : Value) (h : 33 ≤ len.toNat) :
    (Event.push len value).row cls full = .pushRsvd len value :=
  if_pos h

/-- Settles O21: in each context that selects a row, the row of the row's own event is the row again. -/
theorem decodeInvertsEncode : Obligations.DecodeInvertsEncode := by
  refine ⟨fun cls full => decodeRow_encode cls full _, fun cls full => decodeRow_encode cls full _,
    fun full => decodeRow_encode _ full _, fun full => decodeRow_encode _ full _,
    fun full => decodeRow_encode _ full _, fun cls len value h => ?_, fun cls value => decodeRow_encode cls false _,
    fun cls len value h => ?_, fun cls full len value h => ?_⟩
  · have hlen : len.toNat ≤ 31 := of_decide_eq_true h
    exact (decodeRow_encode cls false _).trans (congrArg _ (Event.row_push_short cls value hlen))
  · exact (decodeRow_encode cls true _).trans (congrArg _ (Event.row_push_full cls value h))
  · have hlen : 33 ≤ len.toNat := of_decide_eq_true h
    exact (decodeRow_encode cls full _).trans (congrArg _ (Event.row_push_reserved cls full value hlen))

/-- Settles O20: each word is a number, and the decoder runs on it. -/
theorem wordsDecodeToTheirRows : Obligations.WordsDecodeToTheirRows := by
  unfold Obligations.WordsDecodeToTheirRows
  decide

end Sys2Proof
end

section
/-! What every cycle keeps and answers (10_state.md R15, R19, R21, R23; 42_control.md R111, R112; 60_exceptions.md
R120), and what RESET forgets (70_reset_and_hazards.md R140). -/

namespace Sys2Proof.Machine

/-! ### The events of a cycle and its bookkeeping -/

theorem State.reset_mem_cycleEvents {s : State} : .reset ∈ s.cycleEvents ↔ s.ports.rst = true :=
  reset_mem_decodeCycle ..

theorem State.start_mem_cycleEvents {s : State} :
    .start ∈ s.cycleEvents ↔ s.ports.rst = false ∧ s.ports.start = true :=
  start_mem_decodeCycle ..

/-- What every event of a run keeps, the run keeps. -/
theorem runEvents_keeps {P : State → Prop} {es : List Event} {s t : State}
    (hkeep : ∀ e ∈ es, ∀ u v, P u → doEvent e u = .next v → P v) (hs : P s) (ht : runEvents es s = .next t) :
    P t := by
  induction es generalizing s with
  | nil => cases ht; exact hs
  | cons e es ih =>
    obtain ⟨u, hu, ht⟩ := runEvents_cons_iff.1 ht
    exact ih (fun f hf => hkeep f (List.mem_cons_of_mem e hf)) (hkeep e List.mem_cons_self s u hs hu) ht

/-- A run of one event is that event. -/
theorem runEvents_singleton (e : Event) (s : State) : runEvents [e] s = doEvent e s := by
  rw [runEvents]
  cases doEvent e s <;> rfl

/-- The bookkeeping touches nothing that the choice of a row reads. -/
theorem State.advance_rowOf (s : State) (e : Event) : s.advance.rowOf e = s.rowOf e := by
  rw [State.advance_eq]
  rfl

theorem step_of_one_event {s : State} {e : Event} (h : s.cycleEvents = [e]) :
    step s = exec (s.rowOf e) s.advance := by
  rw [step_eq, h, runEvents_singleton, doEvent, State.advance_rowOf]

theorem step_of_no_event {s : State} (h : s.cycleEvents = []) : step s = .next s.advance := by
  rw [step_eq, h, runEvents_nil]

/-- The divider after the bookkeeping (60_exceptions.md R128). -/
theorem State.advance_div (s : State) :
    s.advance.div = if s.ports.rst then s.div
      else if s.run then (if s.div = 0 then tickDiv s.cfg - 1 else s.div - 1) else s.div := by
  unfold State.advance
  split
  · rfl
  · rfl

/-- Settles O24: the cycle's events by their number, and the bookkeeping by what it writes. -/
theorem stepRunsTheDecodedRow : Obligations.StepRunsTheDecodedRow := by
  intro s
  refine ⟨fun e => step_of_one_event, step_of_no_event, ?_⟩
  rw [← State.advance_div, ← State.advance_eq]

/-! ### `RUN` (10_state.md R21) -/

/-- Only RESET and START write `RUN`. -/
theorem run_of_doEvent {e : Event} {s t : State} (hreset : e ≠ .reset) (hstart : e ≠ .start)
    (ht : doEvent e s = .next t) : t.run = s.run := by
  cases e with
  | reset => exact absurd rfl hreset
  | start => exact absurd rfl hstart
  | tick =>
    rw [doEvent_tick] at ht
    obtain ⟨-, ⟨-, rfl⟩ | ⟨-, e, -, rfl⟩ | ⟨-, rfl⟩⟩ := tick_next ht
    · rfl
    · rfl
    · rfl
  | push len value =>
    rw [doEvent_push] at ht
    cases ht
    obtain ⟨-, -, heq⟩ | ⟨-, heq⟩ := push_cases len value s <;> rw [heq]
    rfl

/-- Nothing but RESET clears `RUN` (42_control.md R112). -/
theorem doEvent_keeps_running {e : Event} {s t : State} (hreset : e ≠ .reset) (hrun : s.run = true)
    (ht : doEvent e s = .next t) : t.run = true := by
  by_cases hstart : e = .start
  · subst hstart
    cases ht
    rwa [start_of_running hrun]
  · rwa [run_of_doEvent hreset hstart ht]

/-- Nothing but START sets `RUN` (42_control.md R110). -/
theorem doEvent_keeps_stopped {e : Event} {s t : State} (hstart : e ≠ .start) (hrun : s.run = false)
    (ht : doEvent e s = .next t) : t.run = false := by
  by_cases hreset : e = .reset
  · subst hreset
    cases ht
    rfl
  · rwa [run_of_doEvent hreset hstart ht]

/-- Settles O5: a cycle keeps what each of its events keeps, and its ports say which events those are. -/
theorem onlyResetStopsTheTicks : Obligations.OnlyResetStopsTheTicks := by
  refine ⟨fun s t e ht => ⟨fun hrun hreset => doEvent_keeps_running hreset hrun ht,
    fun hrun hstart => doEvent_keeps_stopped hstart hrun ht⟩,
    fun s t ht => ⟨fun hrun hrst => ?_, fun hrun hstart => ?_⟩⟩
  · have hreset : .reset ∉ s.cycleEvents := by simp [State.reset_mem_cycleEvents, hrst]
    exact runEvents_keeps (fun e he u v hu hv => doEvent_keeps_running (ne_of_mem_of_not_mem he hreset) hu hv)
      (s.advance_run.trans hrun) ht
  · have hstart' : .start ∉ s.cycleEvents := by simp [State.start_mem_cycleEvents, hstart]
    exact runEvents_keeps (fun e he u v hu hv => doEvent_keeps_stopped (ne_of_mem_of_not_mem he hstart') hu hv)
      (s.advance_run.trans hrun) ht

/-! ### Cycles of a stopped block (42_control.md R111) -/

/-- A cycle of a stopped block that is neither started nor reset only takes what is pushed. -/
theorem step_of_stopped {s : State} (hrun : s.run = false) (hstart : s.ports.start = false)
    (hrst : s.ports.rst = false) :
    step s = .next (if s.ports.pushValid then push s.ports.pushLen s.ports.pushValue s.advance else s.advance) := by
  refine (step_next_iff hrst).2 ⟨s.advance, s.advance, ?_, ?_, ?_⟩
  · simp [hstart]
  · simp [State.strobe_of_stopped hrun]
  · cases s.ports.pushValid with
    | false => rfl
    | true => exact doEvent_push ..

/-- `t` is where the cycles of a stopped block lead from `s` past some of the coming samples: the pins are as they
were. -/
structure State.Waited (s t : State) : Prop where
  run : t.run = false
  clk : t.clk = s.clk
  dat : t.dat = s.dat
  pinLog : t.pinLog = s.pinLog
  inputs : ∀ p ∈ t.inputs, p ∈ s.inputs

theorem State.waited_advance {s : State} (hrun : s.run = false) : s.Waited s.advance where
  run := s.advance_run.trans hrun
  clk := s.advance_clk
  dat := s.advance_dat
  pinLog := s.advance_pinLog
  inputs := fun _ hp => List.mem_of_mem_tail (s.advance_inputs ▸ hp)

theorem State.Waited.push {s t : State} (h : s.Waited t) (len : Len) (value : Value) :
    s.Waited (push len value t) := by
  obtain ⟨-, -, heq⟩ | ⟨-, heq⟩ := push_cases len value t <;> rw [heq]
  · exact { h with }
  · exact h

theorem State.Waited.trans {s t u : State} (h : s.Waited t) (h' : t.Waited u) : s.Waited u where
  run := h'.run
  clk := h'.clk.trans h.clk
  dat := h'.dat.trans h.dat
  pinLog := h'.pinLog.trans h.pinLog
  inputs := fun p hp => h.inputs p (h'.inputs p hp)

/-- Past the end of the list the ports are quiet. -/
theorem State.ports_start_of_inputs {s : State} (hquiet : ∀ p ∈ s.inputs, p.start = false) :
    s.ports.start = false := by
  unfold State.ports
  cases hinputs : s.inputs with
  | nil => rfl
  | cons p ps => exact hquiet p (by simp [hinputs])

theorem exists_step_waited {s : State} (hrun : s.run = false)
    (hquiet : ∀ p ∈ s.inputs, p.start = false ∧ p.rst = false) : ∃ t, step s = .next t ∧ s.Waited t := by
  have hstart := State.ports_start_of_inputs fun p hp => (hquiet p hp).1
  have hrst := State.ports_rst_of_inputs fun p hp => (hquiet p hp).2
  have hwaited := State.waited_advance hrun
  refine ⟨_, step_of_stopped hrun hstart hrst, ?_⟩
  split
  · exact hwaited.push _ _
  · exact hwaited

/-- Settles O6, by induction on the cycles. -/
theorem pinsStayUntilStart : Obligations.PinsStayUntilStart := by
  suffices h : ∀ (n : Nat) (s : State), s.run = false → (∀ p ∈ s.inputs, p.start = false ∧ p.rst = false) →
      ∃ t, Sys2Proof.core.run n s = .next t ∧ s.Waited t by
    intro s n hrun hquiet
    obtain ⟨t, ht, hwaited⟩ := h n s hrun hquiet
    exact ⟨t, ht, hwaited.run, hwaited.clk, hwaited.dat, hwaited.pinLog⟩
  intro n
  induction n with
  | zero => exact fun s hrun _ => ⟨s, core_run_zero s, hrun, rfl, rfl, rfl, fun _ => id⟩
  | succ n ih =>
    intro s hrun hquiet
    obtain ⟨u, hu, hwaited⟩ := exists_step_waited hrun hquiet
    obtain ⟨t, ht, hrest⟩ := ih u hwaited.run fun p hp => hquiet p (hwaited.inputs p hp)
    exact ⟨t, (core_run_succ n hu).trans ht, hwaited.trans hrest⟩

/-! ### The invariant, cycle by cycle (10_state.md R15, R19, R22; 60_exceptions.md R120) -/

/-- Settles O28: the bookkeeping keeps the invariant, and so does each event. -/
theorem stepKeepsTheInvariant : Obligations.StepKeepsTheInvariant :=
  fun _ _ h ht => h.after_advance.after_runEvents ht

/-- Settles O29: a cycle is a reset, or a cycle of a running, a starting or a stopped block. -/
theorem stepAlwaysAnswersNext : Obligations.StepAlwaysAnswersNext := by
  intro s h
  cases hrst : s.ports.rst with
  | true => exact ⟨_, step_of_rst hrst⟩
  | false =>
    cases hrun : s.run with
    | true =>
      obtain ⟨t, ht, -⟩ := h.exists_step_of_running hrun hrst
      exact ⟨t, ht⟩
    | false =>
      cases hstart : s.ports.start with
      | true =>
        obtain ⟨t, ht, -⟩ := h.exists_step_of_starting hrun hstart hrst
        exact ⟨t, ht⟩
      | false => exact ⟨_, step_of_stopped hrun hstart hrst⟩

/-! ### The pins and the trace (10_state.md R23, R30) -/

@[simp] theorem lastClk_concat_clk (c b : Bool) (l : List PinEvent) : lastClk c (l ++ [.clk b]) = b := by
  simp [lastClk]

@[simp] theorem lastClk_concat_dat (c b : Bool) (l : List PinEvent) : lastClk c (l ++ [.dat b]) = lastClk c l := by
  simp [lastClk]

@[simp] theorem lastDat_concat_dat (d b : Bool) (l : List PinEvent) : lastDat d (l ++ [.dat b]) = b := by
  simp [lastDat]

@[simp] theorem lastDat_concat_clk (d b : Bool) (l : List PinEvent) : lastDat d (l ++ [.clk b]) = lastDat d l := by
  simp [lastDat]

theorem State.resetWith_pinsFollowLog (c : Config) (inputs : List PortSample) :
    (State.resetWith c inputs).PinsFollowLog := ⟨rfl, rfl⟩

theorem State.PinsFollowLog.toggleClk {s : State} (h : s.PinsFollowLog) : s.toggleClk.PinsFollowLog :=
  ⟨lastClk_concat_clk .., (lastDat_concat_clk ..).trans h.2⟩

theorem State.PinsFollowLog.emitArm {s : State} (h : s.PinsFollowLog) : (emitArm s).PinsFollowLog :=
  ⟨(lastClk_concat_dat ..).trans h.1, lastDat_concat_dat ..⟩

theorem State.PinsFollowLog.advance {s : State} (h : s.PinsFollowLog) : s.advance.PinsFollowLog := by
  rw [State.advance_eq]
  exact h

/-- Every event that drives a pin logs the level it drives. -/
theorem State.PinsFollowLog.doEvent {e : Event} {s t : State} (h : s.PinsFollowLog) (ht : doEvent e s = .next t) :
    t.PinsFollowLog := by
  cases e with
  | reset => cases ht; exact State.resetWith_pinsFollowLog _ _
  | start =>
    cases ht
    obtain ⟨-, heq⟩ | ⟨-, heq⟩ := start_cases s <;> rw [heq] <;> exact h
  | tick =>
    rw [doEvent_tick] at ht
    obtain ⟨-, ⟨-, rfl⟩ | ⟨-, e, -, rfl⟩ | ⟨-, rfl⟩⟩ := tick_next ht
    · exact h.toggleClk.emitArm
    · exact h.toggleClk
    · exact h.toggleClk
  | push len value =>
    rw [doEvent_push] at ht
    cases ht
    obtain ⟨-, -, heq⟩ | ⟨-, heq⟩ := push_cases len value s <;> rw [heq] <;> exact h

/-- Settles O30: the bookkeeping touches neither pin nor trace, and each event keeps the two together. -/
theorem stepKeepsPinsAtLoggedLevels : Obligations.StepKeepsPinsAtLoggedLevels :=
  fun _ _ h ht => runEvents_keeps (fun _ _ _ _ hu hv => hu.doEvent hv) h.advance ht

/-- Settles O27: the reset state of every build has an empty queue, no pending bit and an empty trace. -/
theorem invariantHoldsAfterReset : Obligations.InvariantHoldsAfterReset :=
  ⟨State.resetWith_inv, State.resetWith_pinsFollowLog, State.resetWith_inv _ _⟩

/-! ### RESET (70_reset_and_hazards.md R140) -/

theorem exec_reset (s : State) : exec .reset s = .next (State.resetWith s.cfg s.inputs) := exec_event .reset s

/-- Settles O2: what RESET answers names the build and the coming samples alone. -/
theorem resetForgetsWhatWasBefore : Obligations.ResetForgetsWhatWasBefore := by
  intro s s' hcfg hinputs
  rw [exec_reset, exec_reset, ← hcfg, ← hinputs]
  exact ⟨rfl, _, rfl, exec_reset _, rfl, fun _ => rfl⟩

/-- Settles O3: in the reset state `RUN` is 0 and the ports are quiet, so a cycle is its bookkeeping alone. -/
theorem nothingHappensFromResetAlone : Obligations.NothingHappensFromResetAlone :=
  ⟨rfl, rfl, rfl, rfl, rfl, exec_reset _, step_of_stopped rfl rfl rfl⟩

end Sys2Proof.Machine
end

section
/-! A cycle in which a push stands beside a tick (60_exceptions.md R123 b), and a cycle that a word is presented to
(log entry 3). -/

namespace Sys2Proof.Machine

/-! ### A push beside a tick (60_exceptions.md R123 b) -/

/-- In a cycle with a strobe and a push the push meets the state that the tick left. -/
theorem step_of_strobe_and_push {s b : State} (hrst : s.ports.rst = false) (hstrobe : s.strobe = true)
    (hvalid : s.ports.pushValid = true) (hb : tick s.advance = .next b) :
    step s = .next (push s.ports.pushLen s.ports.pushValue b) := by
  refine (step_next_iff hrst).2 ⟨s.advance, b, ?_, ?_, ?_⟩
  · split
    · rw [doEvent_start, start_advance_of_strobe hstrobe]
    · rfl
  · simpa [hstrobe] using hb
  · simp [hvalid]

theorem push_of_room {len : Len} {value : Value} {s : State} (hroom : s.qCount < s.cfg.qdepth)
    (hlen : len.toNat ≤ 32) : push len value s = s.storeEntry (packEntry len value) := by
  obtain ⟨-, -, heq⟩ | ⟨hfull | hlong, -⟩ := push_cases len value s
  · exact heq
  · exact absurd hroom (Nat.not_lt.2 hfull)
  · exact absurd hlen (Nat.not_le.2 hlong)

theorem push_of_dropped {s : State} {len : Len} (value : Value) (hdrop : s.cfg.qdepth ≤ s.qCount ∨ 32 < len.toNat) :
    push len value s = s := by
  obtain ⟨hroom, hlen, -⟩ | ⟨-, heq⟩ := push_cases len value s
  · omega
  · exact heq

/-- A store reads back at its write index. -/
theorem read_storeEntry {s : State} {e : Entry} {i : Nat} (hi : s.writeIndex = i) :
    Memory.read (s.storeEntry e).qMem i = some e :=
  hi ▸ Memory.read_write_same ..

/-- An empty queue is written at the cursor. -/
theorem State.Inv.writeIndex_of_empty {s : State} (h : s.Inv) (hcount : s.qCount = 0) : s.writeIndex = s.qRd := by
  rw [State.writeIndex, State.slotIndex, hcount, Nat.add_zero, Nat.mod_eq_of_lt h.rd_lt]

/-- After a pop from a full queue the write index is the slot just freed. -/
theorem State.Inv.writeIndex_popQueue_of_full {s : State} (h : s.Inv) (hfull : s.qCount = s.cfg.qdepth) :
    s.popQueue.writeIndex = s.qRd := by
  have hdepth := s.cfg.qdepth_pos
  have hround : s.qRd + 1 + (s.cfg.qdepth - 1) = s.qRd + s.cfg.qdepth := by omega
  rw [State.writeIndex, State.slotIndex, State.popQueue_qRd, State.popQueue_qCount, State.popQueue_cfg, hfull,
    Nat.mod_add_mod, hround, Nat.add_mod_right, Nat.mod_eq_of_lt h.rd_lt]

/-- A push after the load of a full queue takes the slot just freed. -/
theorem push_after_load_of_full {s b : State} {len : Len} (value : Value) (h : s.Inv) (hlen : len.toNat ≤ 32)
    (hcls : s.cls = .loadPending) (hfull : s.qCount = s.cfg.qdepth) (hb : tick s = .next b) :
    (push len value b).qCount = s.cfg.qdepth ∧ (push len value b).pwPos = 0 ∧
      Memory.read (push len value b).qMem s.qRd = some (packEntry len value) := by
  obtain ⟨e, he⟩ := h.exists_entry hcls
  rw [tick_load ((tick_next hb).1) hcls he] at hb
  cases hb
  have hdepth := s.cfg.qdepth_pos
  have hcount : s.qCount - 1 + 1 = s.cfg.qdepth := by omega
  have hroom : s.qCount - 1 < s.cfg.qdepth := by omega
  have hindex : (s.toggleClk.loadPendingWord e).popQueue.writeIndex = s.qRd := h.writeIndex_popQueue_of_full hfull
  rw [push_of_room hroom hlen]
  exact ⟨hcount, rfl, read_storeEntry hindex⟩

/-- A push after a tick of an idle block waits at the cursor. -/
theorem push_after_idle {s b : State} {len : Len} (value : Value) (h : s.Inv) (hlen : len.toNat ≤ 32)
    (hcls : s.cls = .idle) (hb : tick s = .next b) :
    push len value b = s.toggleClk.storeEntry (packEntry len value) ∧ s.qCount = 0 ∧
      Memory.read (push len value b).qMem s.qRd = some (packEntry len value) := by
  rw [tick_idle ((tick_next hb).1) hcls] at hb
  cases hb
  obtain ⟨-, hcount⟩ := State.cls_idle.1 hcls
  have hroom : s.toggleClk.qCount < s.toggleClk.cfg.qdepth := hcount.trans_lt s.cfg.qdepth_pos
  rw [push_of_room hroom hlen]
  exact ⟨rfl, hcount, read_storeEntry (h.after_toggleClk.writeIndex_of_empty hcount)⟩

theorem State.advance_cls (s : State) : s.advance.cls = s.cls := by
  rw [State.advance_eq]
  rfl

/-- Settles O26: the tick's arm is the class's, and the push stores on the state that it leaves. -/
theorem pushBesideATickComesAfterIt : Obligations.PushBesideATickComesAfterIt := by
  intro s h hrst hstrobe hvalid hlen
  have hrun : s.advance.run = true := s.advance_run.trans ((Bool.and_eq_true _ _).mp hstrobe).1
  have hadv := h.after_advance
  obtain ⟨b, hb, -⟩ := hadv.exists_tick hrun
  obtain ⟨hclk, -⟩ := tick_drives hadv hb
  obtain ⟨hpushclk, -⟩ := push_pins s.ports.pushLen s.ports.pushValue b
  refine ⟨_, step_of_strobe_and_push hrst hstrobe hvalid hb, by rw [hpushclk, hclk, State.advance_clk],
    fun hcls hfull => ?_, fun hcls => ?_⟩
  · have hfull' : s.advance.qCount = s.advance.cfg.qdepth := by rwa [State.advance_qCount, State.advance_cfg]
    have hload := push_after_load_of_full s.ports.pushValue hadv hlen (s.advance_cls.trans hcls) hfull' hb
    rwa [State.advance_cfg, State.advance_qRd] at hload
  · obtain ⟨heq, hcount, hread⟩ := push_after_idle s.ports.pushValue hadv hlen (s.advance_cls.trans hcls) hb
    rw [State.advance_qRd] at hread
    rw [State.advance_qCount] at hcount
    rw [heq] at hread ⊢
    exact ⟨s.advance_dat, s.advance_pwValue, by simp [hcount], s.advance_qRd, by simp, hread⟩

/-! ### A word presented to a cycle (log entry 3) -/

/-- A vector is its four bits (30_encoding.md R61). -/
theorem packVector_bits (ev : EventVector) :
    packVector (ev.getLsbD 3) (ev.getLsbD 2) (ev.getLsbD 1) (ev.getLsbD 0) = ev := by
  revert ev
  decide

/-- `s` with a vector and an entry presented to its next cycle. -/
def State.presenting (s : State) (ev : EventVector) (entry : Entry) : State :=
  (s.withPorts (samplePorts ev entry)).withStrobe (ev.getLsbD 0)

theorem presentWord_of_split {w : Nat} {ev : EventVector} {entry : Entry} (s : State)
    (h : splitWord w = .ok (ev, entry)) : presentWord s w = s.presenting ev entry := by
  rw [presentWord, h]
  rfl

theorem State.withStrobe_inputs (s : State) (b : Bool) : (s.withStrobe b).inputs = s.inputs := by
  unfold State.withStrobe
  split
  · rfl
  · split <;> rfl

/-- The tick generator strikes in the next cycle exactly if told to: a divider put back is not 0. -/
theorem State.withStrobe_strobe (s : State) (b : Bool) : (s.withStrobe b).strobe = b := by
  have hdiv := five_le_tickDiv s.cfg
  cases b with
  | true => rfl
  | false =>
    cases hstrobe : s.strobe with
    | true =>
      have hload : tickDiv s.cfg - 1 ≠ 0 := by omega
      have hback : s.withStrobe false = { s with div := tickDiv s.cfg - 1 } := if_pos hstrobe
      simp [hback, State.strobe, hload]
    | false =>
      have hsame : s.withStrobe false = s := by simp [State.withStrobe, hstrobe]
      rw [hsame, hstrobe]

theorem State.presenting_ports (s : State) (ev : EventVector) (entry : Entry) :
    (s.presenting ev entry).ports = samplePorts ev entry := by
  rw [State.ports, State.presenting, State.withStrobe_inputs]
  rfl

theorem State.presenting_eventVector (s : State) (ev : EventVector) (entry : Entry) :
    (s.presenting ev entry).eventVector = ev := by
  rw [State.eventVector, State.presenting_ports, State.presenting, State.withStrobe_strobe]
  exact packVector_bits ev

/-- The cycle that a vector and an entry are presented to has their events. -/
theorem State.presenting_cycleEvents (s : State) (ev : EventVector) (entry : Entry) :
    (s.presenting ev entry).cycleEvents = decodeCycle ev entry := by
  rw [State.cycleEvents, State.presenting_eventVector, State.portEntry, State.presenting_ports]
  exact congrArg _ (packEntry_fields entry)

/-- What is presented touches nothing that the choice of a row reads. -/
theorem State.presenting_rowOf (s : State) (ev : EventVector) (entry : Entry) (e : Event) :
    (s.presenting ev entry).rowOf e = s.rowOf e := by
  unfold State.presenting State.withStrobe
  split
  · rfl
  · split <;> rfl

theorem State.withFetchWord_encode (s : State) (i : Instr) :
    s.withFetchWord 48 (encode i) = s.presenting i.event.vector i.event.entry := by
  rw [State.withFetchWord, encode_mod, presentWord_of_split s (splitWord_encode i)]

theorem decodeTableWord_eq_some_iff {n w : Nat} {i : Instr} :
    decodeTableWord n w = some i ↔ decodeRow .idle false (w % 2 ^ n) = .ok i := by
  unfold decodeTableWord
  split <;> simp [*]

/-- Settles O23: the word splits into the vector and the entry that the next cycle then samples. -/
theorem presentedWordIsTheCyclesEvent : Obligations.PresentedWordIsTheCyclesEvent := by
  refine ⟨fun s i => ?_, fun n w i hi => ?_⟩
  · intro p
    have hevents : p.cycleEvents = [i.event] := by
      rw [show p = _ from s.withFetchWord_encode i, State.presenting_cycleEvents, decodeCycle_event]
    refine ⟨hevents, ?_⟩
    rw [step_of_one_event hevents]
  · obtain ⟨ev, entry, e, es, hsplit, hcycle, rfl⟩ := decodeRow_eq_ok_iff.1 (decodeTableWord_eq_some_iff.1 hi)
    rw [Event.row_event, State.withFetchWord, presentWord_of_split _ hsplit]
    exact ⟨es, (State.presenting_cycleEvents ..).trans hcycle, State.presenting_rowOf ..⟩

end Sys2Proof.Machine
end

section
/-! The queue as a ring and the queue as a bounded list (10_state.md R19): every event answers the same in both. -/

namespace Sys2Proof.Machine

/-- An entry as the list design holds it. -/
def listEntry (e : Entry) : Nat × Value := ((entryLen e).toNat, entryValue e)

/-- What the list design sees of the queue is its entries in order. -/
theorem State.toList_queue (s : State) : s.toList.queue = s.queue.map listEntry := rfl

theorem resultToList_next (t : State) : resultToList (.next t) = some t.toList := rfl

/-! ### TICK of the list design, arm by arm (40_tick.md R80) -/

theorem ListState.tick_of_active {a : ListState} (hrun : a.run = true) (hpos : a.pwPos < a.pwLen) :
    a.tick = some { a with
      clk := !a.clk, dat := decide (a.pwValue.toNat / 2 ^ a.pwPos % 2 = 1), pwPos := a.pwPos + 1
      pinLog := a.pinLog ++ [.clk (!a.clk), .dat (decide (a.pwValue.toNat / 2 ^ a.pwPos % 2 = 1))] } := by
  rw [ListState.tick, if_pos hrun, if_pos hpos]

theorem ListState.tick_of_cons {a : ListState} {len : Nat} {value : Value} {q : List (Nat × Value)}
    (hrun : a.run = true) (hpos : ¬ a.pwPos < a.pwLen) (hqueue : a.queue = (len, value) :: q) :
    a.tick = some { a with
      clk := !a.clk, pwValue := value, pwPos := 0, pwLen := len, queue := q
      pinLog := a.pinLog ++ [.clk (!a.clk)] } := by
  rw [ListState.tick, if_pos hrun, if_neg hpos, hqueue]

theorem ListState.tick_of_nil {a : ListState} (hrun : a.run = true) (hpos : ¬ a.pwPos < a.pwLen)
    (hqueue : a.queue = []) :
    a.tick = some { a with clk := !a.clk, pinLog := a.pinLog ++ [.clk (!a.clk)] } := by
  rw [ListState.tick, if_pos hrun, if_neg hpos, hqueue]

theorem ListState.tick_of_stopped {a : ListState} (hrun : a.run = false) : a.tick = none := by
  simp [ListState.tick, hrun]

/-! ### The ring's operations, seen as the list design's -/

/-- An emit leaves the queue and moves the position by one without a wrap (40_tick.md R91). -/
theorem State.toList_emitArm {s : State} (hcls : s.cls = .active) :
    (emitArm s.toggleClk).toList = { s.toList with
      clk := !s.clk, dat := s.nextBit, pwPos := s.pwPos.toNat + 1
      pinLog := s.pinLog ++ [.clk (!s.clk), .dat s.nextBit] } := by
  have hpos : (s.pwPos + 1).toNat = s.pwPos.toNat + 1 := pos_succ (State.cls_active.1 hcls)
  rw [← hpos, List.append_cons]
  rfl

/-- A load takes the head of the list. -/
theorem State.toList_queue_of_load {s : State} {e : Entry} (h : s.Inv) (hcls : s.cls = .loadPending)
    (he : Memory.read s.qMem s.qRd = some e) :
    s.toList.queue = listEntry e :: (s.toggleClk.loadPendingWord e).popQueue.toList.queue := by
  have hslot : (s.toggleClk.loadPendingWord e).slot 0 = some e := (slot_zero h.rd_lt).trans he
  have hpop : s.queue = e :: (s.toggleClk.loadPendingWord e).popQueue.queue :=
    queue_popQueue (State.cls_loadPending.1 hcls).2 hslot
  rw [State.toList_queue, hpop]
  rfl

/-- The three arms, and the stop while `RUN` = 0. -/
theorem tick_refines {s : State} (h : s.Inv) : resultToList (tick s) = s.toList.tick := by
  cases hrun : s.run with
  | false =>
    have hlist : s.toList.tick = none := ListState.tick_of_stopped hrun
    rw [tick_refused.2 ⟨hrun, rfl⟩, hlist]
    rfl
  | true =>
    cases hcls : s.cls with
    | active =>
      rw [tick_active hrun hcls, resultToList_next, State.toList_emitArm hcls,
        ListState.tick_of_active hrun (State.cls_active.1 hcls), State.nextBit, valueBit_eq]
      rfl
    | loadPending =>
      obtain ⟨e, he⟩ := h.exists_entry hcls
      rw [tick_load hrun hcls he, resultToList_next,
        ListState.tick_of_cons hrun (State.cls_loadPending.1 hcls).1 (State.toList_queue_of_load h hcls he)]
      rfl
    | idle =>
      obtain ⟨hpos, hcount⟩ := State.cls_idle.1 hcls
      have hqueue : s.toList.queue = [] := congrArg (List.map listEntry) (State.queue_of_qCount_eq_zero hcount)
      rw [tick_idle hrun hcls, resultToList_next, ListState.tick_of_nil hrun hpos hqueue]
      rfl

/-- A stored entry is appended at the tail. -/
theorem State.toList_storeEntry {s : State} {len : Len} {value : Value} (hroom : s.qCount < s.cfg.qdepth) :
    (s.storeEntry (packEntry len value)).toList =
      { s.toList with queue := s.toList.queue ++ [(len.toNat, value)] } := by
  have hqueue : (s.storeEntry (packEntry len value)).toList.queue = s.toList.queue ++ [(len.toNat, value)] := by
    simp [State.toList_queue, queue_storeEntry hroom, listEntry]
  rw [← hqueue]
  rfl

/-- Both designs store under the same condition: the list is as long as `Q_COUNT`. -/
theorem push_refines {s : State} (h : s.Inv) (len : Len) (value : Value) :
    some (push len value s).toList = s.toList.event s.cfg (.push len value) := by
  have hlength : s.toList.queue.length = s.qCount := by rw [State.toList_queue, List.length_map, h.queue_length]
  rw [ListState.event, hlength]
  obtain ⟨hroom, hlen, heq⟩ | ⟨hdrop, heq⟩ := push_cases len value s <;> rw [heq]
  · rw [if_pos ⟨hroom, hlen⟩, State.toList_storeEntry hroom]
  · rw [if_neg (by omega)]

/-- Settles O32, event by event. -/
theorem ringRefinesTheList : Obligations.RingRefinesTheList := by
  intro s e h
  cases e with
  | reset => rfl
  | start =>
    rw [doEvent_start, resultToList_next]
    obtain ⟨-, heq⟩ | ⟨hrun, heq⟩ := start_cases s <;> rw [heq]
    · rfl
    · rw [ListState.event, ← hrun]
      rfl
  | tick => rw [doEvent_tick]; exact tick_refines h
  | push len value => rw [doEvent_push]; exact push_refines h len value

end Sys2Proof.Machine
end

section
/-! The figures of a build (60_exceptions.md R127, 10_state.md R10, R22) and the time the queued entries take
(70_reset_and_hazards.md R153). -/

namespace Sys2Proof.Machine

/-! ### The tick period (60_exceptions.md R127) -/

theorem five_le_tickPeriodUs (c : Config) : 5 ≤ tickPeriodUs c :=
  (Nat.le_div_iff_mul_le c.rate_pos).2 (Nat.mul_le_mul_left 5 c.rate_le)

/-- The period is the quotient rounded down. -/
theorem tickPeriodUs_bounds (c : Config) :
    tickPeriodUs c * c.rate ≤ 1000000 ∧ 1000000 < (tickPeriodUs c + 1) * c.rate :=
  ⟨Nat.div_mul_le_self _ _, Nat.lt_mul_of_div_lt (Nat.lt_succ_self _) c.rate_pos⟩

theorem tickPeriodUs_of_rate {c : Config} {r : Nat} (h : c.rate = r) : tickPeriodUs c = 1000000 / r :=
  congrArg _ h

theorem buildConfig_eq_none_iff {q r f : Nat} {d : Bool} :
    buildConfig q r f d = none ↔ q = 0 ∨ r = 0 ∨ 200000 < r ∨ f = 0 := by
  unfold buildConfig
  split
  · simp only [reduceCtorEq, false_iff]
    omega
  · simp only [true_iff]
    omega

/-- A build that is not refused has the parameters asked for. -/
theorem buildConfig_eq_some {q r f : Nat} {d : Bool} {c : Config} (h : buildConfig q r f d = some c) :
    c.qdepth = q ∧ c.rate = r ∧ c.fSysMhz = f ∧ c.datReset = d := by
  unfold buildConfig at h
  split at h
  · cases h
    exact ⟨rfl, rfl, rfl, rfl⟩
  · cases h

/-- Settles O42: the period is a quotient, and the check of the parameters is `buildConfig`'s own. -/
theorem periodIsTheRoundedQuotient : Obligations.PeriodIsTheRoundedQuotient := by
  refine ⟨fun c => ?_, fun q r f d => buildConfig_eq_none_iff, fun q r f d c => buildConfig_eq_some⟩
  obtain ⟨hlow, hhigh⟩ := tickPeriodUs_bounds c
  exact ⟨hlow, hhigh, five_le_tickPeriodUs c, rfl, five_le_tickDiv c, tickPeriodUs_of_rate, tickPeriodUs_of_rate,
    tickPeriodUs_of_rate, tickPeriodUs_of_rate⟩

/-! ### The register widths (10_state.md R10, R22) -/

/-- A register with one bit at least for each binary digit holds every value below the bound. -/
theorem lt_two_pow_max_clog {n bound : Nat} (h : n < bound) : n < 2 ^ max 1 (Nat.clog 2 bound) :=
  calc n < bound := h
    _ ≤ 2 ^ Nat.clog 2 bound := Nat.le_pow_clog Nat.one_lt_two bound
    _ ≤ 2 ^ max 1 (Nat.clog 2 bound) := Nat.pow_le_pow_right Nat.two_pos (Nat.le_max_right _ _)

/-- Settles O31: each width is the logarithm of a bound that the invariant gives. -/
theorem registerWidthsSuffice : Obligations.RegisterWidthsSuffice := fun s h =>
  ⟨(Nat.lt_succ_of_le h.count_le).trans_le (Nat.le_pow_clog Nat.one_lt_two (s.cfg.qdepth + 1)),
    lt_two_pow_max_clog h.rd_lt, lt_two_pow_max_clog h.div_lt⟩

/-! ### The time to send what is queued (70_reset_and_hazards.md R153) -/

theorem State.advance_pendingTicks (s : State) : s.advance.pendingTicks = s.pendingTicks := by
  rw [State.advance_eq]
  rfl

/-- A cycle with quiet ports is at most a tick: it takes one of the pending ticks exactly if the strobe rises. -/
theorem State.Inv.pendingTicks_of_quiet_step {s t : State} (h : s.Inv) (hinputs : s.inputs = [])
    (ht : step s = .next t) : t.pendingTicks = s.pendingTicks.drop s.strobe.toNat := by
  have hports : s.ports = .quiet := by rw [State.ports, hinputs]; rfl
  have hevents : s.cycleEvents = if s.strobe then [.tick] else [] := by
    simp [State.cycleEvents_eq, hports, PortSample.quiet]
  rw [step_eq, hevents] at ht
  rw [← s.advance_pendingTicks]
  cases hstrobe : s.strobe with
  | false =>
    rw [hstrobe] at ht
    cases ht
    rfl
  | true =>
    rw [hstrobe, if_pos rfl, runEvents_singleton, doEvent_tick] at ht
    obtain ⟨-, -, hpending⟩ := tick_drives h.after_advance ht
    rw [hpending, Bool.toNat_true, List.drop_one]

/-- `n` cycles with quiet ports take as many of the pending ticks as the divider strikes. -/
theorem State.Inv.exists_quiet_run {s : State} (h : s.Inv) (hrun : s.run = true) (hinputs : s.inputs = []) (n : Nat) :
    ∃ t, Sys2Proof.core.run n s = .next t ∧ t.Inv ∧ t.pendingTicks = s.pendingTicks.drop (s.strikes n) := by
  induction n generalizing s with
  | zero =>
    have hnone : s.strikes 0 = 0 := Nat.div_eq_of_lt (by have := h.div_lt; omega)
    exact ⟨s, core_run_zero s, h, by rw [hnone, List.drop_zero]⟩
  | succ n ih =>
    have hrst : s.ports.rst = false := by rw [State.ports, hinputs]; rfl
    obtain ⟨u, hu, hticked⟩ := h.exists_step_of_running hrun hrst
    have hquiet : u.inputs = [] := by rw [hticked.inputs, State.advance_inputs, hinputs, List.tail_nil]
    obtain ⟨t, ht, hinv, hpending⟩ := ih hticked.inv hticked.run hquiet
    refine ⟨t, (core_run_succ n hu).trans ht, hinv, ?_⟩
    rw [hpending, h.pendingTicks_of_quiet_step hinputs hu, List.drop_drop, hticked.strikes,
      h.strikes_succ hrun hrst]

/-- The send time in cycles of `sys_clk` is a period for each tick (60_exceptions.md R128). -/
theorem sendAllTimeUs_mul_fSysMhz (c : Config) (lens : List Nat) :
    sendAllTimeUs c lens * c.fSysMhz = (lens.map (· + 1)).sum * tickDiv c :=
  Nat.mul_assoc ..

/-- Settles O44: the block is IDLE when no tick is pending, and the ticks come one a period. -/
theorem queuedEntriesGoOutInTheirTime : Obligations.QueuedEntriesGoOutInTheirTime := by
  intro s n h hrun hinputs hpos hdiv
  obtain ⟨t, ht, hinv, hpending⟩ := h.exists_quiet_run hrun hinputs n
  have hperiod : 0 < tickDiv s.cfg := (Nat.succ_pos 4).trans_le (five_le_tickDiv s.cfg)
  have hlength : s.pendingTicks.length = ((s.queue.map fun e => (entryLen e).toNat).map (· + 1)).sum := by
    rw [State.pendingTicks_length, hpos, Nat.sub_self, Nat.zero_add]
  refine ⟨t, ht, ?_⟩
  rw [hinv.idle_iff_cls, ← hinv.pendingTicks_eq_nil_iff, hpending, List.drop_eq_nil_iff,
    State.strikes_of_loaded hdiv, Nat.le_div_iff_mul_le hperiod, hlength, sendAllTimeUs_mul_fSysMhz]

end Sys2Proof.Machine
end

section
/-! The rows TICK and PUSH one by one (40_tick.md R82 to R84, 41_queue_push.md R100 to R102), what each operation writes
(10_state.md R10), and what of a pushed value shows on the pins (20_memory.md R48, 30_encoding.md R64). -/

namespace Sys2Proof.Machine

/-! ### The TICK rows (40_tick.md R80) -/

/-- Each TICK row means TICK (log entry 5). -/
theorem exec_of_tick_row {i : Instr} (hi : i = .tickEmit ∨ i = .tickLoad ∨ i = .tickIdle) (s : State) :
    exec i s = tick s := by
  rcases hi with rfl | rfl | rfl
  · exact exec_event _ s
  · exact exec_event _ s
  · exact exec_event _ s

/-- The record of an emit: the clock line, the data line, the position and the trace. -/
theorem emitArm_toggleClk (s : State) :
    emitArm s.toggleClk = { s with
      clk := !s.clk, dat := s.nextBit, pwPos := s.pwPos + 1
      pinLog := s.pinLog ++ [.clk (!s.clk), .dat s.nextBit] } := by
  rw [List.append_cons]
  rfl

/-- Settles O7: below the length the arm is the emit, whose record names all that changes. -/
theorem tickEmitDrivesOneBit : Obligations.TickEmitDrivesOneBit := by
  intro i s hi hrun hlt b
  have hcls : s.cls = .active := State.cls_active.2 hlt
  have hbit : s.nextBit = b := valueBit_eq ..
  have hpos : (s.pwPos + 1).toNat = s.pwPos.toNat + 1 := pos_succ hlt
  refine ⟨emitArm s.toggleClk, (exec_of_tick_row hi s).trans (tick_active hrun hcls), ?_, hpos, ?_, fun hlen => ?_⟩
  · rw [emitArm_toggleClk, hbit]
  · rw [State.active_eq_false, ← BitVec.toNat_inj]
    have hle : (emitArm s.toggleClk).pwPos.toNat ≤ (emitArm s.toggleClk).pwLen.toNat := hpos.trans_le hlt
    exact ⟨hle.antisymm, Eq.ge⟩
  · exact ⟨by omega, hpos.trans_le (by omega)⟩

/-- Settles O8: the entry's number says what its two fields are. -/
theorem tickLoadPopsTheEntryAtTheCursor : Obligations.TickLoadPopsTheEntryAtTheCursor := by
  intro i s e len value hi hrun hpos hcount he hnum
  have hcls : s.cls = .loadPending := State.cls_loadPending.2 ⟨Nat.not_lt.2 hpos, hcount⟩
  obtain ⟨rfl, rfl⟩ := Entry.eq_packEntry_iff.1 (Entry.toNat_eq_iff.1 hnum)
  refine ⟨_, (exec_of_tick_row hi s).trans (tick_load hrun hcls he), rfl, State.active_iff, fun hle => ?_⟩
  have hroom : s.qCount - 1 < s.cfg.qdepth := by omega
  exact State.pushReady_iff.2 hroom

/-- Settles O9: with nothing left and nothing queued the arm is the toggle alone. -/
theorem tickIdleTogglesTheClockAlone : Obligations.TickIdleTogglesTheClockAlone := by
  intro i s hi hrun hpos hcount
  have hcls : s.cls = .idle := State.cls_idle.2 ⟨Nat.not_lt.2 hpos, hcount⟩
  exact (exec_of_tick_row hi s).trans (tick_idle hrun hcls)

/-- A load of an entry that nothing has written (20_memory.md R41; log entry 7). -/
theorem tick_load_unwritten {s : State} (hrun : s.run = true) (hcls : s.cls = .loadPending)
    (hnone : Memory.read s.qMem s.qRd = none) : tick s = .fault .unwrittenEntry := by
  simp [tick, hrun, hcls, loadArm, hnone]

/-- A TICK faults exactly at such a load. -/
theorem tick_fault {s : State} {r : Fault} :
    tick s = .fault r ↔
      s.run = true ∧ s.cls = .loadPending ∧ Memory.read s.qMem s.qRd = none ∧ r = .unwrittenEntry := by
  refine ⟨fun hfault => ?_, fun ⟨hrun, hcls, hnone, hr⟩ => hr ▸ tick_load_unwritten hrun hcls hnone⟩
  cases hrun : s.run with
  | false => rw [tick_refused.2 ⟨hrun, rfl⟩] at hfault; cases hfault
  | true =>
    cases hcls : s.cls with
    | active => rw [tick_active hrun hcls] at hfault; cases hfault
    | idle => rw [tick_idle hrun hcls] at hfault; cases hfault
    | loadPending =>
      cases hread : Memory.read s.qMem s.qRd with
      | some e => rw [tick_load hrun hcls hread] at hfault; cases hfault
      | none => rw [tick_load_unwritten hrun hcls hread] at hfault; cases hfault; exact ⟨rfl, rfl, rfl, rfl⟩

/-- Settles O10: `RUN` decides the refusal, the read at the cursor decides the fault. -/
theorem tickStopsOnlyByName : Obligations.TickStopsOnlyByName := by
  intro i s hi
  rw [exec_of_tick_row hi]
  refine ⟨fun r => tick_refused, fun r => ?_⟩
  rw [tick_fault, State.cls_loadPending, Nat.not_lt, and_assoc]

/-- Settles O12: the row of a TICK is the class's, which under R15 is the predicate its column names. -/
theorem selectedRowMeetsItsCondition : Obligations.SelectedRowMeetsItsCondition := by
  intro s e h hrun
  cases e with
  | reset => rfl
  | start => rfl
  | tick =>
    have hrun := hrun rfl
    cases hcls : s.cls with
    | active => simpa [State.rowOf, Event.row, hcls, rowWhen, hrun] using State.active_iff_cls.2 hcls
    | loadPending => simpa [State.rowOf, Event.row, hcls, rowWhen, hrun] using h.loadPending_iff_cls.2 hcls
    | idle => simpa [State.rowOf, Event.row, hcls, rowWhen, hrun] using h.idle_iff_cls.2 hcls
  | push len value =>
    rw [State.rowOf, Event.row]
    split
    · exact decide_eq_true ‹_›
    · cases hready : s.pushReady with
      | false => exact beq_iff_eq.2 (h.count_le.antisymm (State.pushReady_eq_false.1 hready))
      | true => rw [Bool.not_true, if_neg Bool.false_ne_true]; split <;> exact hready

/-! ### The PUSH rows (41_queue_push.md R100 to R102) -/

/-- A row of the event PUSH means PUSH, whichever it is (log entry 5). -/
theorem exec_of_push_event {i : Instr} {len : Len} {value : Value} (hi : i.event = .push len value) (s : State) :
    exec i s = .next (push len value s) := by
  rw [exec_event, hi]

/-- Settles O14: a stored entry reads back at the write index, which no waiting entry has; else nothing is stored. -/
theorem pushStoresTheEntryOrDropsIt : Obligations.PushStoresTheEntryOrDropsIt := by
  intro i s len value hi
  have hevent : i.event = .push len value := by
    rcases hi with rfl | ⟨rfl, rfl⟩ | rfl | rfl <;> rfl
  rw [exec_of_push_event hevent]
  refine ⟨fun hroom hlen => ?_, fun hdrop => by rw [push_of_dropped value hdrop]⟩
  · rw [push_of_room hroom hlen]
    refine ⟨_, packEntry len value, rfl, rfl, packEntry_toNat len value, fun j => Memory.read_write ..,
      fun k hk => ring_ne hk hroom, fun hcount hrd => ?_, ?_, fun hidle => ?_⟩
    · exact read_storeEntry (by rw [State.writeIndex, State.slotIndex, hcount, Nat.add_zero, Nat.mod_eq_of_lt hrd])
    · rw [State.pushReady_eq_false, State.storeEntry_qCount, State.storeEntry_cfg]
      omega
    · exact State.loadPending_iff.2 ⟨(State.idle_iff.1 hidle).1, Nat.succ_pos _⟩

/-- No event but a PUSH takes room away. -/
theorem pushReady_of_doEvent {e : Event} {s t : State} (hpush : isPush e = false) (hready : s.pushReady = true)
    (ht : doEvent e s = .next t) : t.pushReady = true := by
  cases e with
  | reset => cases ht; exact State.resetWith_pushReady _ _
  | start =>
    cases ht
    obtain ⟨-, heq⟩ | ⟨-, heq⟩ := start_cases s <;> rw [heq] <;> exact hready
  | tick =>
    rw [doEvent_tick] at ht
    obtain ⟨-, ⟨-, rfl⟩ | ⟨-, e, -, rfl⟩ | ⟨-, rfl⟩⟩ := tick_next ht
    · exact hready
    · exact State.pushReady_iff.2 ((Nat.sub_le _ _).trans_lt (State.pushReady_iff.1 hready))
    · exact hready
  | push len value => exact absurd hpush Bool.noConfusion

/-- Settles O15: a full queue drops the push, and no other event adds to `Q_COUNT`. -/
theorem pushIntoFullQueueIsDropped : Obligations.PushIntoFullQueueIsDropped := by
  refine ⟨fun i s len value hi hfull => ?_, fun e s t => pushReady_of_doEvent⟩
  obtain ⟨l, hevent⟩ : ∃ l, i.event = .push l value := by
    rcases hi with rfl | rfl | rfl | rfl <;> exact ⟨_, rfl⟩
  rw [exec_of_push_event hevent, push_of_dropped value (.inl hfull)]

/-- Settles O16: the length alone drops the push. -/
theorem pushOfReservedLengthIsDropped : Obligations.PushOfReservedLengthIsDropped := by
  intro i s len value hi hlong
  have hevent : i.event = .push len value := by
    rcases hi with rfl | rfl | rfl <;> rfl
  rw [exec_of_push_event hevent, push_of_dropped value (.inr hlong)]

/-- Settles O17: the push writes at the cursor of the empty queue, and the tick then finds LOAD_PENDING. -/
theorem pushIsSeenByTheNextTick : Obligations.PushIsSeenByTheNextTick := by
  intro s len value h hrun hidle hlen
  obtain ⟨hpos, hcount⟩ := State.idle_iff.1 hidle
  have hroom : s.qCount < s.cfg.qdepth := hcount.trans_lt s.cfg.qdepth_pos
  have hpush : doEvent (.push len value) s = .next (s.storeEntry (packEntry len value)) := by
    rw [doEvent_push, push_of_room hroom hlen]
  have hread : Memory.read (s.storeEntry (packEntry len value)).qMem s.qRd = some (packEntry len value) :=
    read_storeEntry (h.writeIndex_of_empty hcount)
  have hcls : (s.storeEntry (packEntry len value)).cls = .loadPending :=
    State.cls_loadPending.2 ⟨hpos ▸ Nat.lt_irrefl _, Nat.succ_pos _⟩
  have htick := tick_load (s := s.storeEntry (packEntry len value)) hrun hcls hread
  have hruns := (runEvents_cons_next [.tick] hpush).trans
    ((runEvents_singleton _ _).trans ((doEvent_tick _).trans htick))
  exact ⟨_, hruns, entryValue_packEntry .., entryLen_packEntry .., rfl, hcount, rfl, rfl, rfl, rfl⟩

/-! ### What each operation writes (10_state.md R10, R22) -/

/-- Settles O18, event by event: RESET may write all, and each other event changes what its record names. -/
theorem eachElementHasItsWriters : Obligations.EachElementHasItsWriters := by
  intro i s t ht
  rw [exec_event] at ht
  dsimp only
  generalize i.event = e at ht ⊢
  cases e with
  | reset => cases ht; simp [reset]
  | start =>
    cases ht
    obtain ⟨-, heq⟩ | ⟨-, heq⟩ := start_cases s <;> simp [heq]
  | tick =>
    obtain ⟨-, ⟨hcls, rfl⟩ | ⟨hcls, e, -, rfl⟩ | ⟨hcls, rfl⟩⟩ := tick_next ht
    · simp [hcls, emitArm]
    · simp [hcls]
    · simp [hcls]
  | push len value =>
    cases ht
    obtain ⟨-, -, heq⟩ | ⟨-, heq⟩ := push_cases len value s <;> simp [heq, isPush]

/-- A TICK reads no divider: its arm, its stops and its record are the same whatever `DIV` is. -/
theorem forgetDiv_tick (s : State) (d : Nat) : forgetDiv (tick { s with div := d }) = forgetDiv (tick s) := by
  obtain hrun | hrun := Bool.eq_false_or_eq_true s.run
  · cases hcls : s.cls with
    | active => rw [tick_active hrun hcls, tick_active (s := { s with div := d }) hrun hcls]; rfl
    | idle => rw [tick_idle hrun hcls, tick_idle (s := { s with div := d }) hrun hcls]; rfl
    | loadPending =>
      cases hread : Memory.read s.qMem s.qRd with
      | some e => rw [tick_load hrun hcls hread, tick_load (s := { s with div := d }) hrun hcls hread]; rfl
      | none => rw [tick_load_unwritten hrun hcls hread, tick_load_unwritten (s := { s with div := d }) hrun hcls hread]
  · rw [tick_refused.2 ⟨hrun, rfl⟩, tick_refused (s := { s with div := d }) |>.2 ⟨hrun, rfl⟩]

theorem forgetDiv_start (s : State) (d : Nat) :
    forgetDiv (.next (start { s with div := d })) = forgetDiv (.next (start s)) := by
  obtain ⟨hrun, heq⟩ | ⟨hrun, heq⟩ := start_cases s
  · rw [heq, start_of_stopped (s := { s with div := d }) hrun]; rfl
  · rw [heq, start_of_running (s := { s with div := d }) hrun]; rfl

theorem forgetDiv_push (len : Len) (value : Value) (s : State) (d : Nat) :
    forgetDiv (.next (push len value { s with div := d })) = forgetDiv (.next (push len value s)) := by
  obtain ⟨hroom, hlen, heq⟩ | ⟨hdrop, heq⟩ := push_cases len value s
  · rw [heq, push_of_room (s := { s with div := d }) hroom hlen]; rfl
  · rw [heq, push_of_dropped (s := { s with div := d }) value hdrop]; rfl

/-- Settles O19, operation by operation. -/
theorem noResultDependsOnTheDivider : Obligations.NoResultDependsOnTheDivider := by
  intro i s d
  rw [exec_event, exec_event]
  cases i.event with
  | reset => rfl
  | start => exact forgetDiv_start s d
  | tick => exact forgetDiv_tick s d
  | push len value => exact forgetDiv_push len value s d

/-! ### Bits above the length (30_encoding.md R64) -/

/-- Two values whose numbers agree modulo `2^len` have the same bits below `len`. -/
theorem valueBit_congr {v v' : Value} {l i : Nat} (h : v.toNat % 2 ^ l = v'.toNat % 2 ^ l) (hi : i < l) :
    valueBit v i = valueBit v' i := by
  have hbit := congrArg (Nat.testBit · i) h
  simpa [valueBit, BitVec.getLsbD, Nat.testBit_mod_two_pow, hi] using hbit

/-- So their frames drive the same levels. -/
theorem entryTicks_congr {len : Len} {v v' : Value} (h : v.toNat % 2 ^ len.toNat = v'.toNat % 2 ^ len.toNat) :
    entryTicks (packEntry len v) = entryTicks (packEntry len v') := by
  rw [entryTicks, entryTicks, entryLen_packEntry, entryLen_packEntry, entryValue_packEntry, entryValue_packEntry]
  refine congrArg (none :: ·) (List.map_congr_left fun k hk => congrArg some (valueBit_congr h ?_))
  have hk := List.mem_range.1 hk
  omega

/-- Two states that look alike on the pins now and in the ticks to come. -/
structure State.SamePins (s t : State) : Prop where
  clk : s.clk = t.clk
  dat : s.dat = t.dat
  pinLog : s.pinLog = t.pinLog
  pendingTicks : s.pendingTicks = t.pendingTicks

/-- A TICK leaves the data line at the bit it drives, or where it was. -/
theorem tick_dat {s t : State} (h : s.Inv) (ht : tick s = .next t) :
    t.dat = (s.pendingTicks.headD none).getD s.dat := by
  obtain ⟨-, ⟨hcls, rfl⟩ | ⟨hcls, e, he, rfl⟩ | ⟨hcls, rfl⟩⟩ := tick_next ht
  · rw [State.pendingTicks_of_active hcls]
    rfl
  · rw [State.pendingTicks_of_loadPending h hcls he]
    rfl
  · rw [State.pendingTicks_of_idle hcls]
    rfl

theorem State.SamePins.tick {s s' t t' : State} (h : s.SamePins s') (hs : s.Inv) (hs' : s'.Inv)
    (ht : tick s = .next t) (ht' : tick s' = .next t') : t.SamePins t' := by
  obtain ⟨hclk, hlog, hpending⟩ := tick_drives hs ht
  obtain ⟨hclk', hlog', hpending'⟩ := tick_drives hs' ht'
  exact {
    clk := by rw [hclk, hclk', h.clk]
    dat := by rw [tick_dat hs ht, tick_dat hs' ht', h.pendingTicks, h.dat]
    pinLog := by rw [hlog, hlog', h.pinLog, h.clk, h.pendingTicks]
    pendingTicks := by rw [hpending, hpending', h.pendingTicks] }

/-- States that look alike still do so after equally many ticks. -/
theorem State.SamePins.tickLines {s s' t t' : State} {n : Nat} (h : s.SamePins s') (hs : s.Inv) (hs' : s'.Inv)
    (ht : runEvents (tickLines n) s = .next t) (ht' : runEvents (tickLines n) s' = .next t') : t.SamePins t' := by
  induction n generalizing s s' with
  | zero => cases ht; cases ht'; exact h
  | succ n ih =>
    obtain ⟨u, hu, ht⟩ := runEvents_cons_iff.1 ht
    obtain ⟨u', hu', ht'⟩ := runEvents_cons_iff.1 ht'
    rw [doEvent_tick] at hu hu'
    exact ih (h.tick hs hs' hu hu') (hs.after_tick hu) (hs'.after_tick hu') ht ht'

/-- A stored entry's frame comes after all that is pending. -/
theorem pendingTicks_storeEntry {s : State} {e : Entry} (hroom : s.qCount < s.cfg.qdepth) :
    (s.storeEntry e).pendingTicks = s.pendingTicks ++ entryTicks e := by
  simp [State.pendingTicks, queue_storeEntry hroom]

/-- Whether a push is stored does not depend on the value, and what is stored drives the same levels. -/
theorem samePins_push {s : State} {len : Len} {v v' : Value}
    (h : v.toNat % 2 ^ len.toNat = v'.toNat % 2 ^ len.toNat) : (push len v s).SamePins (push len v' s) := by
  obtain ⟨hroom, hlen, heq⟩ | ⟨hdrop, heq⟩ := push_cases len v s
  · rw [heq, push_of_room hroom hlen]
    refine ⟨rfl, rfl, rfl, ?_⟩
    rw [pendingTicks_storeEntry hroom, pendingTicks_storeEntry hroom, entryTicks_congr h]
  · rw [heq, push_of_dropped v' hdrop]
    exact ⟨rfl, rfl, rfl, rfl⟩

theorem push_run (len : Len) (value : Value) (s : State) : (push len value s).run = s.run :=
  run_of_doEvent (e := .push len value) nofun nofun (doEvent_push len value s)

/-- A push and any number of ticks complete. -/
theorem State.Inv.exists_push_ticks {s : State} (h : s.Inv) (hrun : s.run = true) (len : Len) (value : Value)
    (n : Nat) : ∃ t, runEvents (tickLines n) (push len value s) = .next t ∧
      runEvents (.push len value :: tickLines n) s = .next t := by
  obtain ⟨t, ht, -⟩ := (h.after_push len value).exists_ticks ((push_run len value s).trans hrun) n
  exact ⟨t, ht, (runEvents_cons_next _ (doEvent_push len value s)).trans ht⟩

/-- Settles O39: the two pushes leave states that look alike, and ticks keep them so. -/
theorem bitsAboveTheLengthDoNotShow : Obligations.BitsAboveTheLengthDoNotShow := by
  intro s len v v' n h hrun hbits
  obtain ⟨t, ht, hruns⟩ := h.exists_push_ticks hrun len v n
  obtain ⟨t', ht', hruns'⟩ := h.exists_push_ticks hrun len v' n
  have hsame := (samePins_push hbits).tickLines (h.after_push len v) (h.after_push len v') ht ht'
  exact ⟨t, t', hruns, hruns', hsame.pinLog, hsame.clk, hsame.dat⟩

end Sys2Proof.Machine
end
